-- ==== Sys2Proof/Word.lean ====
section
/-! DEFINITION. The words of the PARC ISA (spec/00_scope.md R7, R9; spec/30_encoding.md R81 to R83). -/

namespace Sys2Proof

/-- A register value, an address or an instruction: 32 bits, numbered 31 down to 0 (R7, R9). -/
abbrev Word := BitVec 32

/-- A halfword: 2 bytes (R7). -/
abbrev Half := BitVec 16

/-- A byte: 8 bits (R7). -/
abbrev Byte := BitVec 8

/-- A general register number, the 5-bit field of an instruction used directly as the number (R81, R84). -/
abbrev Reg := BitVec 5

/-- A coprocessor 0 register number: the 5-bit `rd` field of mfc0 and mtc0 (spec/10_state.md R28). -/
abbrev CpReg := BitVec 5

/-- A constant shift amount: the 5-bit `sa` field, 0 to 31 (R81, R84). -/
abbrev Shamt := BitVec 5

/-- A 16-bit immediate field (R82). -/
abbrev Imm16 := BitVec 16

/-- A 26-bit jump target field (R83). -/
abbrev Target := BitVec 26

end Sys2Proof
end

