-- ==== Sys2Proof/Config.lean ====
section
/-! DEFINITION. What the ISA leaves to an implementation (spec/00_scope.md R8) and its two fixed addresses (R7).

A parameter that is plain data is a field of `Params`, which the state carries, so that a statement holds for every
implementation and one implementation can be run (DESIGN CHOICE, safe, entry 5). A parameter that is a function is opaque:
nothing can be proved of its values (entries 7, 8). -/

namespace Sys2Proof.Config

/-- `PARC_VERSION`: the four cumulative versions of the ISA (R2, R3). -/
inductive Version where
  | v1 | v2 | v3 | v4
  deriving DecidableEq, Repr

/-- The number of a version, so that versions can be ordered (R2: each is a superset of the one before). -/
def Version.number : Version → Nat
  | .v1 => 1
  | .v2 => 2
  | .v3 => 3
  | .v4 => 4

/-- Version `a` comes no later than version `b`: what `a` has, `b` has (R2, R3). -/
def Version.le (a b : Version) : Bool := a.number ≤ b.number

/-- `VAR_SHIFT_AMOUNT`: what srav, srlv and sllv take of a shift amount of 32 or more (D7). -/
inductive ShiftAmount where
  /-- The low five bits of the register. -/
  | low5
  /-- The whole register. -/
  | full
  deriving DecidableEq, Repr

/-- `STATS_EN_READ`: what mfc0 of stats_en does (D18). -/
inductive StatsRead where
  /-- It is an undefined access. -/
  | refuse
  /-- It returns the last value written. -/
  | lastWritten
  deriving DecidableEq, Repr

/-- What eret does before any syscall has written epc: the two ways that D35 names for a register never written (entry 2). -/
inductive EpcUnset where
  /-- It faults UnsetEPC (spec/48_exception_instructions.md R222). -/
  | refuse
  /-- It returns to the address that epc holds since reset. -/
  | resetValue
  deriving DecidableEq, Repr

/-- The parameters of R8 that are plain data, and the model's own for an unwritten epc. NUMCORES and COREID are the registers
cpr16 and cpr17 of the state. -/
structure Params where
  /-- `PARC_VERSION` (D1). -/
  version : Version
  /-- `PADDR_BITS`, the length of a physical address (D2). -/
  paddrBits : Nat
  /-- `VAR_SHIFT_AMOUNT` (D7). -/
  shiftAmount : ShiftAmount
  /-- `FIFO_DEPTH`, the capacity of each manager FIFO; none: unbounded (D19). -/
  fifoDepth : Option Nat
  /-- `STATS_EN_READ` (D18). -/
  statsRead : StatsRead
  /-- What eret does before any syscall (D35; the model's own parameter, entry 2). -/
  epcUnset : EpcUnset
  deriving DecidableEq, Repr

/-- The constraints R8 puts on the parameters: 13 <= PADDR_BITS <= 32, FIFO_DEPTH >= 1. -/
def Params.wf (p : Params) : Bool :=
  (13 ≤ p.paddrBits && p.paddrBits ≤ 32) && p.fifoDepth.all (1 ≤ ·)

/-- The parameters of the machine at reset: the full ISA, and the values spec/95_test_vectors.md takes unless a row says
otherwise, but for STATS_EN_READ and the eret before any syscall, where the reading that has an effect is taken (DESIGN CHOICE,
unsafe, entries 2, 5, 6). -/
def Params.atReset : Params where
  version := .v4
  paddrBits := 32
  shiftAmount := .low5
  fifoDepth := none
  statsRead := .lastWritten
  epcUnset := .resetValue

/-- The four instructions whose result has corner operands. -/
inductive DivOp where
  | div | divu | rem | remu
  deriving DecidableEq, Repr

/-- `DIV_CORNER`: the result of div, divu, rem, remu at a zero divisor, and of div, rem at 0x80000000 / 0xFFFFFFFF. A free
value: a total function of the instruction and the operand values, of which nothing is assumed (D9, R141 to R144;
DESIGN CHOICE, safe, entry 8). -/
opaque divCorner : DivOp → Word → Word → Word

/-- The byte that a physical address holds after reset where the loader placed none. A free value: R263 forbids giving it a
value (DESIGN CHOICE, unsafe only if such a byte may change between two reads, entry 7). -/
opaque ramByte : Nat → Byte

/-- The reset vector (R7, spec/70_reset_and_hazards.md R260). -/
def resetVector : Word := 0x00001000

/-- The address of the instruction executed after a syscall (R7, spec/20_memory.md R58). -/
def syscallVector : Word := 0x00000004

end Sys2Proof.Config
end

