-- ==== Sys2Proof/Syntax.lean ====
section
/-! DEFINITION. The instructions of the PARC ISA: one constructor for each row of spec/opcode_table.json, operands in the
order of the assembly line (spec/30_encoding.md R88, R100). An operand carries the name of the field that holds it. -/

namespace Sys2Proof

/-- The 52 instructions of PARCv4 (spec/00_scope.md R2). -/
inductive Instr where
  /-- `mfc0 rt, rd`: `rt` a general register, `rd` a coprocessor 0 register (R110). -/
  | mfc0 (rt : Reg) (rd : CpReg)
  /-- `mtc0 rt, rd`: `rt` a general register, `rd` a coprocessor 0 register (R111). -/
  | mtc0 (rt : Reg) (rd : CpReg)
  /-- `addu rd, rs, rt` (R120). -/
  | addu (rd rs rt : Reg)
  /-- `subu rd, rs, rt` (R121). -/
  | subu (rd rs rt : Reg)
  /-- `and rd, rs, rt` (R122). -/
  | and (rd rs rt : Reg)
  /-- `or rd, rs, rt` (R123). -/
  | or (rd rs rt : Reg)
  /-- `xor rd, rs, rt` (R124). -/
  | xor (rd rs rt : Reg)
  /-- `nor rd, rs, rt` (R125). -/
  | nor (rd rs rt : Reg)
  /-- `slt rd, rs, rt` (R126). -/
  | slt (rd rs rt : Reg)
  /-- `sltu rd, rs, rt` (R127). -/
  | sltu (rd rs rt : Reg)
  /-- `srav rd, rt, rs`: `rs` holds the amount (R128). -/
  | srav (rd rt rs : Reg)
  /-- `srlv rd, rt, rs`: `rs` holds the amount (R129). -/
  | srlv (rd rt rs : Reg)
  /-- `sllv rd, rt, rs`: `rs` holds the amount (R130). -/
  | sllv (rd rt rs : Reg)
  /-- `mul rd, rs, rt` (R140). -/
  | mul (rd rs rt : Reg)
  /-- `div rd, rs, rt` (R141). -/
  | div (rd rs rt : Reg)
  /-- `divu rd, rs, rt` (R142). -/
  | divu (rd rs rt : Reg)
  /-- `rem rd, rs, rt` (R143). -/
  | rem (rd rs rt : Reg)
  /-- `remu rd, rs, rt` (R144). -/
  | remu (rd rs rt : Reg)
  /-- `addiu rt, rs, imm` (R150). -/
  | addiu (rt rs : Reg) (imm : Imm16)
  /-- `lui rt, imm` (R151). -/
  | lui (rt : Reg) (imm : Imm16)
  /-- `ori rt, rs, imm` (R152). -/
  | ori (rt rs : Reg) (imm : Imm16)
  /-- `andi rt, rs, imm` (R153). -/
  | andi (rt rs : Reg) (imm : Imm16)
  /-- `xori rt, rs, imm` (R154). -/
  | xori (rt rs : Reg) (imm : Imm16)
  /-- `slti rt, rs, imm` (R155). -/
  | slti (rt rs : Reg) (imm : Imm16)
  /-- `sltiu rt, rs, imm` (R156). -/
  | sltiu (rt rs : Reg) (imm : Imm16)
  /-- `sra rd, rt, sa` (R157). -/
  | sra (rd rt : Reg) (sa : Shamt)
  /-- `srl rd, rt, sa` (R158). -/
  | srl (rd rt : Reg) (sa : Shamt)
  /-- `sll rd, rt, sa` (R159). -/
  | sll (rd rt : Reg) (sa : Shamt)
  /-- `lw rt, imm(rs)` (R171). -/
  | lw (rt rs : Reg) (imm : Imm16)
  /-- `lh rt, imm(rs)` (R172). -/
  | lh (rt rs : Reg) (imm : Imm16)
  /-- `lhu rt, imm(rs)` (R173). -/
  | lhu (rt rs : Reg) (imm : Imm16)
  /-- `lb rt, imm(rs)` (R174). -/
  | lb (rt rs : Reg) (imm : Imm16)
  /-- `lbu rt, imm(rs)` (R175). -/
  | lbu (rt rs : Reg) (imm : Imm16)
  /-- `sw rt, imm(rs)` (R176). -/
  | sw (rt rs : Reg) (imm : Imm16)
  /-- `sh rt, imm(rs)` (R177). -/
  | sh (rt rs : Reg) (imm : Imm16)
  /-- `sb rt, imm(rs)` (R178). -/
  | sb (rt rs : Reg) (imm : Imm16)
  /-- `j target` (R190). -/
  | j (target : Target)
  /-- `jr rs` (R191). -/
  | jr (rs : Reg)
  /-- `jalr rd, rs` (R192). -/
  | jalr (rd rs : Reg)
  /-- `jal target` (R193). -/
  | jal (target : Target)
  /-- `beq rs, rt, imm` (R201). -/
  | beq (rs rt : Reg) (imm : Imm16)
  /-- `bne rs, rt, imm` (R202). -/
  | bne (rs rt : Reg) (imm : Imm16)
  /-- `bgtz rs, imm` (R203). -/
  | bgtz (rs : Reg) (imm : Imm16)
  /-- `bltz rs, imm` (R204). -/
  | bltz (rs : Reg) (imm : Imm16)
  /-- `bgez rs, imm` (R205). -/
  | bgez (rs : Reg) (imm : Imm16)
  /-- `blez rs, imm` (R206). -/
  | blez (rs : Reg) (imm : Imm16)
  /-- `amo.add rd, rs, rt`: `rs` holds the address (R210). -/
  | amoAdd (rd rs rt : Reg)
  /-- `amo.and rd, rs, rt`: `rs` holds the address (R211). -/
  | amoAnd (rd rs rt : Reg)
  /-- `amo.or rd, rs, rt`: `rs` holds the address (R212). -/
  | amoOr (rd rs rt : Reg)
  /-- `sync` (R213). -/
  | sync
  /-- `syscall` (R221). -/
  | syscall
  /-- `eret` (R222). -/
  | eret
  deriving DecidableEq, Repr

/-- The mnemonic of an instruction, as spec/opcode_table.json spells it. -/
def Instr.mnemonic : Instr → String
  | .mfc0 _ _ => "mfc0"
  | .mtc0 _ _ => "mtc0"
  | .addu _ _ _ => "addu"
  | .subu _ _ _ => "subu"
  | .and _ _ _ => "and"
  | .or _ _ _ => "or"
  | .xor _ _ _ => "xor"
  | .nor _ _ _ => "nor"
  | .slt _ _ _ => "slt"
  | .sltu _ _ _ => "sltu"
  | .srav _ _ _ => "srav"
  | .srlv _ _ _ => "srlv"
  | .sllv _ _ _ => "sllv"
  | .mul _ _ _ => "mul"
  | .div _ _ _ => "div"
  | .divu _ _ _ => "divu"
  | .rem _ _ _ => "rem"
  | .remu _ _ _ => "remu"
  | .addiu _ _ _ => "addiu"
  | .lui _ _ => "lui"
  | .ori _ _ _ => "ori"
  | .andi _ _ _ => "andi"
  | .xori _ _ _ => "xori"
  | .slti _ _ _ => "slti"
  | .sltiu _ _ _ => "sltiu"
  | .sra _ _ _ => "sra"
  | .srl _ _ _ => "srl"
  | .sll _ _ _ => "sll"
  | .lw _ _ _ => "lw"
  | .lh _ _ _ => "lh"
  | .lhu _ _ _ => "lhu"
  | .lb _ _ _ => "lb"
  | .lbu _ _ _ => "lbu"
  | .sw _ _ _ => "sw"
  | .sh _ _ _ => "sh"
  | .sb _ _ _ => "sb"
  | .j _ => "j"
  | .jr _ => "jr"
  | .jalr _ _ => "jalr"
  | .jal _ => "jal"
  | .beq _ _ _ => "beq"
  | .bne _ _ _ => "bne"
  | .bgtz _ _ => "bgtz"
  | .bltz _ _ => "bltz"
  | .bgez _ _ => "bgez"
  | .blez _ _ => "blez"
  | .amoAdd _ _ _ => "amo.add"
  | .amoAnd _ _ _ => "amo.and"
  | .amoOr _ _ _ => "amo.or"
  | .sync => "sync"
  | .syscall => "syscall"
  | .eret => "eret"

end Sys2Proof
end

