-- ==== Sys2Proof/WellFormed.lean ====
section
/-! DEFINITION. When an instruction belongs to the machine at all. The fields of `Instr` have the widths of the encoding, so
every operand value is one that the encoding admits; what can be ill formed is an instruction of a later version. -/

namespace Sys2Proof

/-- The version that adds an instruction (spec/00_scope.md R2; jalr is in no list of the source and is placed in PARCv1, D16). -/
def Instr.since : Instr → Config.Version
  | .mfc0 _ _ => .v1
  | .mtc0 _ _ => .v1
  | .addu _ _ _ => .v1
  | .subu _ _ _ => .v1
  | .and _ _ _ => .v1
  | .or _ _ _ => .v1
  | .xor _ _ _ => .v2
  | .nor _ _ _ => .v2
  | .slt _ _ _ => .v1
  | .sltu _ _ _ => .v2
  | .srav _ _ _ => .v2
  | .srlv _ _ _ => .v2
  | .sllv _ _ _ => .v2
  | .mul _ _ _ => .v1
  | .div _ _ _ => .v2
  | .divu _ _ _ => .v2
  | .rem _ _ _ => .v2
  | .remu _ _ _ => .v2
  | .addiu _ _ _ => .v1
  | .lui _ _ => .v1
  | .ori _ _ _ => .v1
  | .andi _ _ _ => .v2
  | .xori _ _ _ => .v2
  | .slti _ _ _ => .v2
  | .sltiu _ _ _ => .v2
  | .sra _ _ _ => .v1
  | .srl _ _ _ => .v2
  | .sll _ _ _ => .v1
  | .lw _ _ _ => .v1
  | .lh _ _ _ => .v2
  | .lhu _ _ _ => .v2
  | .lb _ _ _ => .v2
  | .lbu _ _ _ => .v2
  | .sw _ _ _ => .v1
  | .sh _ _ _ => .v2
  | .sb _ _ _ => .v2
  | .j _ => .v1
  | .jr _ => .v1
  | .jalr _ _ => .v1
  | .jal _ => .v1
  | .beq _ _ _ => .v1
  | .bne _ _ _ => .v1
  | .bgtz _ _ => .v2
  | .bltz _ _ => .v2
  | .bgez _ _ => .v2
  | .blez _ _ => .v2
  | .amoAdd _ _ _ => .v3
  | .amoAnd _ _ _ => .v3
  | .amoOr _ _ _ => .v3
  | .sync => .v3
  | .syscall => .v4
  | .eret => .v4

/-- An instruction exists in a machine of version `v`: it is of that version or an earlier one (R3). -/
def Instr.wellFormed (v : Config.Version) (i : Instr) : Bool := i.since.le v

end Sys2Proof
end

