-- ==== Sys2Proof/Decode.lean ====
section
/-! DEFINITION. Decoding and encoding (spec/30_encoding.md). A word that is no instruction is rejected by name; there are no
hint encodings and no forms of another length (R80, R98). -/

namespace Sys2Proof

/-! ## Fields (R81 to R83) -/

/-- `op`, bits 31:26. -/
def opField (w : Word) : BitVec 6 := w.extractLsb' 26 6
/-- `rs`, bits 25:21. -/
def rsField (w : Word) : BitVec 5 := w.extractLsb' 21 5
/-- `rt`, bits 20:16. -/
def rtField (w : Word) : BitVec 5 := w.extractLsb' 16 5
/-- `rd`, bits 15:11. -/
def rdField (w : Word) : BitVec 5 := w.extractLsb' 11 5
/-- `sa`, bits 10:6. -/
def saField (w : Word) : BitVec 5 := w.extractLsb' 6 5
/-- `func`, bits 5:0, which some tables of the source call `cmd` (C16). -/
def funcField (w : Word) : BitVec 6 := w.extractLsb' 0 6
/-- `imm`, bits 15:0. -/
def immField (w : Word) : Imm16 := w.extractLsb' 0 16
/-- `target`, bits 25:0. -/
def targetField (w : Word) : Target := w.extractLsb' 0 26

/-! ## Byte order of an instruction word (spec/20_memory.md R50, R60) -/

/-- The word whose byte at the lowest address is `b0`: little-endian, `b0` in bits 7:0 (R51, R60). -/
def wordOfBytes (b0 b1 b2 b3 : Byte) : Word := b3 ++ b2 ++ b1 ++ b0

/-- Byte `i` of a word, `W[8i+7 : 8i]` (R51). -/
def byteOfWord (w : Word) (i : Nat) : Byte := w.extractLsb' (8 * i) 8

/-- The four bytes of a word from the lowest address up (R51). -/
def bytesOfWord (w : Word) : List Byte := [byteOfWord w 0, byteOfWord w 1, byteOfWord w 2, byteOfWord w 3]

/-! ## The opcode table (R88) -/

/-- One row of the table: a word `w` is the instruction of the row when `w &&& mask = pattern`. -/
structure OpcodeRow where
  /-- The mnemonic. -/
  mnemonic : String
  /-- The fixed bits, every operand bit 0. -/
  pattern : Word
  /-- Ones where the pattern's bits are fixed. -/
  mask : Word
  /-- The version that adds the instruction. -/
  since : Config.Version
  deriving DecidableEq, Repr

/-- The table of R88. Fifteen patterns are MIPS32's, their figures being lost (R91, GK1; PRESUMED, unsafe, entry 13). Every bit
of a field that a table prints as zeros is fixed (R94, D15; entry 14). -/
def opcodeRows : List OpcodeRow :=
  [
   ⟨"mfc0", 0x40000000, 0xFFE007FF, .v1⟩,
   ⟨"mtc0", 0x40800000, 0xFFE007FF, .v1⟩,
   ⟨"addu", 0x00000021, 0xFC0007FF, .v1⟩,
   ⟨"subu", 0x00000023, 0xFC0007FF, .v1⟩,
   ⟨"and", 0x00000024, 0xFC0007FF, .v1⟩,
   ⟨"or", 0x00000025, 0xFC0007FF, .v1⟩,
   ⟨"xor", 0x00000026, 0xFC0007FF, .v2⟩,
   ⟨"nor", 0x00000027, 0xFC0007FF, .v2⟩,
   ⟨"slt", 0x0000002A, 0xFC0007FF, .v1⟩,
   ⟨"sltu", 0x0000002B, 0xFC0007FF, .v2⟩,
   ⟨"srav", 0x00000007, 0xFC0007FF, .v2⟩,
   ⟨"srlv", 0x00000006, 0xFC0007FF, .v2⟩,
   ⟨"sllv", 0x00000004, 0xFC0007FF, .v2⟩,
   ⟨"mul", 0x70000002, 0xFC0007FF, .v1⟩,
   ⟨"div", 0x9C000005, 0xFC0007FF, .v2⟩,
   ⟨"divu", 0x9C000007, 0xFC0007FF, .v2⟩,
   ⟨"rem", 0x9C000006, 0xFC0007FF, .v2⟩,
   ⟨"remu", 0x9C000008, 0xFC0007FF, .v2⟩,
   ⟨"addiu", 0x24000000, 0xFC000000, .v1⟩,
   ⟨"lui", 0x3C000000, 0xFFE00000, .v1⟩,
   ⟨"ori", 0x34000000, 0xFC000000, .v1⟩,
   ⟨"andi", 0x30000000, 0xFC000000, .v2⟩,
   ⟨"xori", 0x38000000, 0xFC000000, .v2⟩,
   ⟨"slti", 0x28000000, 0xFC000000, .v2⟩,
   ⟨"sltiu", 0x2C000000, 0xFC000000, .v2⟩,
   ⟨"sra", 0x00000003, 0xFFE0003F, .v1⟩,
   ⟨"srl", 0x00000002, 0xFFE0003F, .v2⟩,
   ⟨"sll", 0x00000000, 0xFFE0003F, .v1⟩,
   ⟨"lw", 0x8C000000, 0xFC000000, .v1⟩,
   ⟨"lh", 0x84000000, 0xFC000000, .v2⟩,
   ⟨"lhu", 0x94000000, 0xFC000000, .v2⟩,
   ⟨"lb", 0x80000000, 0xFC000000, .v2⟩,
   ⟨"lbu", 0x90000000, 0xFC000000, .v2⟩,
   ⟨"sw", 0xAC000000, 0xFC000000, .v1⟩,
   ⟨"sh", 0xA4000000, 0xFC000000, .v2⟩,
   ⟨"sb", 0xA0000000, 0xFC000000, .v2⟩,
   ⟨"j", 0x08000000, 0xFC000000, .v1⟩,
   ⟨"jr", 0x00000008, 0xFC1FFFFF, .v1⟩,
   ⟨"jalr", 0x00000009, 0xFC1F07FF, .v1⟩,
   ⟨"jal", 0x0C000000, 0xFC000000, .v1⟩,
   ⟨"beq", 0x10000000, 0xFC000000, .v1⟩,
   ⟨"bne", 0x14000000, 0xFC000000, .v1⟩,
   ⟨"bgtz", 0x1C000000, 0xFC1F0000, .v2⟩,
   ⟨"bltz", 0x04000000, 0xFC1F0000, .v2⟩,
   ⟨"bgez", 0x04010000, 0xFC1F0000, .v2⟩,
   ⟨"blez", 0x18000000, 0xFC1F0000, .v2⟩,
   ⟨"amo.add", 0x9C000002, 0xFC0007FF, .v3⟩,
   ⟨"amo.and", 0x9C000003, 0xFC0007FF, .v3⟩,
   ⟨"amo.or", 0x9C000004, 0xFC0007FF, .v3⟩,
   ⟨"sync", 0x0000000F, 0xFFFFFFFF, .v3⟩,
   ⟨"syscall", 0x0000000C, 0xFFFFFFFF, .v4⟩,
   ⟨"eret", 0x00000018, 0xFFFFFFFF, .v4⟩
  ]

/-- The word is an instruction of the row (R88). -/
def OpcodeRow.isRowOf (row : OpcodeRow) (w : Word) : Bool := w &&& row.mask == row.pattern

/-! ## The decode tree (R85 to R87, R94) -/

/-- The instruction, if the fields that must be zero are. -/
def onlyIf (fixed : Bool) (i : Instr) : Option Instr := if fixed then some i else none

/-- op = 000000, by `func` (R86). -/
def decodeSpecial (w : Word) : Option Instr :=
  match funcField w with
  | 0b000000#6 => onlyIf (rsField w == 0) (.sll (rdField w) (rtField w) (saField w))
  | 0b000010#6 => onlyIf (rsField w == 0) (.srl (rdField w) (rtField w) (saField w))
  | 0b000011#6 => onlyIf (rsField w == 0) (.sra (rdField w) (rtField w) (saField w))
  | 0b000100#6 => onlyIf (saField w == 0) (.sllv (rdField w) (rtField w) (rsField w))
  | 0b000110#6 => onlyIf (saField w == 0) (.srlv (rdField w) (rtField w) (rsField w))
  | 0b000111#6 => onlyIf (saField w == 0) (.srav (rdField w) (rtField w) (rsField w))
  | 0b001000#6 => onlyIf (rtField w == 0 && rdField w == 0 && saField w == 0) (.jr (rsField w))
  | 0b001001#6 => onlyIf (rtField w == 0 && saField w == 0) (.jalr (rdField w) (rsField w))
  | 0b001100#6 => onlyIf (rsField w == 0 && rtField w == 0 && rdField w == 0 && saField w == 0) .syscall
  | 0b001111#6 => onlyIf (rsField w == 0 && rtField w == 0 && rdField w == 0 && saField w == 0) .sync
  | 0b011000#6 => onlyIf (rsField w == 0 && rtField w == 0 && rdField w == 0 && saField w == 0) .eret
  | 0b100001#6 => onlyIf (saField w == 0) (.addu (rdField w) (rsField w) (rtField w))
  | 0b100011#6 => onlyIf (saField w == 0) (.subu (rdField w) (rsField w) (rtField w))
  | 0b100100#6 => onlyIf (saField w == 0) (.and (rdField w) (rsField w) (rtField w))
  | 0b100101#6 => onlyIf (saField w == 0) (.or (rdField w) (rsField w) (rtField w))
  | 0b100110#6 => onlyIf (saField w == 0) (.xor (rdField w) (rsField w) (rtField w))
  | 0b100111#6 => onlyIf (saField w == 0) (.nor (rdField w) (rsField w) (rtField w))
  | 0b101010#6 => onlyIf (saField w == 0) (.slt (rdField w) (rsField w) (rtField w))
  | 0b101011#6 => onlyIf (saField w == 0) (.sltu (rdField w) (rsField w) (rtField w))
  | _ => none

/-- op = 000001, by `rt` (R85). -/
def decodeRegimm (w : Word) : Option Instr :=
  match rtField w with
  | 0b00000#5 => some (.bltz (rsField w) (immField w))
  | 0b00001#5 => some (.bgez (rsField w) (immField w))
  | _ => none

/-- op = 010000, by `rs`; bits 10:0 must be 0 (R85; the field widths are C2's). -/
def decodeCop0 (w : Word) : Option Instr :=
  match rsField w with
  | 0b00000#5 => onlyIf (saField w == 0 && funcField w == 0) (.mfc0 (rtField w) (rdField w))
  | 0b00100#5 => onlyIf (saField w == 0 && funcField w == 0) (.mtc0 (rtField w) (rdField w))
  | _ => none

/-- op = 011100: only mul (R85). -/
def decodeSpecial2 (w : Word) : Option Instr :=
  match funcField w with
  | 0b000010#6 => onlyIf (saField w == 0) (.mul (rdField w) (rsField w) (rtField w))
  | _ => none

/-- op = 100111, PARC's own opcode, by `func` (R87). -/
def decodeParc (w : Word) : Option Instr :=
  match funcField w with
  | 0b000010#6 => onlyIf (saField w == 0) (.amoAdd (rdField w) (rsField w) (rtField w))
  | 0b000011#6 => onlyIf (saField w == 0) (.amoAnd (rdField w) (rsField w) (rtField w))
  | 0b000100#6 => onlyIf (saField w == 0) (.amoOr (rdField w) (rsField w) (rtField w))
  | 0b000101#6 => onlyIf (saField w == 0) (.div (rdField w) (rsField w) (rtField w))
  | 0b000110#6 => onlyIf (saField w == 0) (.rem (rdField w) (rsField w) (rtField w))
  | 0b000111#6 => onlyIf (saField w == 0) (.divu (rdField w) (rsField w) (rtField w))
  | 0b001000#6 => onlyIf (saField w == 0) (.remu (rdField w) (rsField w) (rtField w))
  | _ => none

/-- The instruction of a word in the full ISA, by `op` (R85); none where the word matches no row of R88 (R97). -/
def decodeWord (w : Word) : Option Instr :=
  match opField w with
  | 0b000000#6 => decodeSpecial w
  | 0b000001#6 => decodeRegimm w
  | 0b000010#6 => some (.j (targetField w))
  | 0b000011#6 => some (.jal (targetField w))
  | 0b000100#6 => some (.beq (rsField w) (rtField w) (immField w))
  | 0b000101#6 => some (.bne (rsField w) (rtField w) (immField w))
  | 0b000110#6 => onlyIf (rtField w == 0) (.blez (rsField w) (immField w))
  | 0b000111#6 => onlyIf (rtField w == 0) (.bgtz (rsField w) (immField w))
  | 0b001001#6 => some (.addiu (rtField w) (rsField w) (immField w))
  | 0b001010#6 => some (.slti (rtField w) (rsField w) (immField w))
  | 0b001011#6 => some (.sltiu (rtField w) (rsField w) (immField w))
  | 0b001100#6 => some (.andi (rtField w) (rsField w) (immField w))
  | 0b001101#6 => some (.ori (rtField w) (rsField w) (immField w))
  | 0b001110#6 => some (.xori (rtField w) (rsField w) (immField w))
  | 0b001111#6 => onlyIf (rsField w == 0) (.lui (rtField w) (immField w))
  | 0b010000#6 => decodeCop0 w
  | 0b011100#6 => decodeSpecial2 w
  | 0b100000#6 => some (.lb (rtField w) (rsField w) (immField w))
  | 0b100001#6 => some (.lh (rtField w) (rsField w) (immField w))
  | 0b100011#6 => some (.lw (rtField w) (rsField w) (immField w))
  | 0b100100#6 => some (.lbu (rtField w) (rsField w) (immField w))
  | 0b100101#6 => some (.lhu (rtField w) (rsField w) (immField w))
  | 0b100111#6 => decodeParc w
  | 0b101000#6 => some (.sb (rtField w) (rsField w) (immField w))
  | 0b101001#6 => some (.sh (rtField w) (rsField w) (immField w))
  | 0b101011#6 => some (.sw (rtField w) (rsField w) (immField w))
  | _ => none

/-- Why bytes are no instruction. -/
inductive Reject where
  /-- The word matches no row of the table (R94, R97). -/
  | undefinedEncoding
  /-- The word is an instruction of a later version than the machine's (R3, R97). -/
  | laterVersion
  /-- Fewer than the four bytes of an instruction (R80). -/
  | tooShort
  deriving DecidableEq, Repr

/-- The instruction of a word in a machine of version `v` (R88, R97, R3). -/
def decode (v : Config.Version) (w : Word) : Except Reject Instr :=
  match decodeWord w with
  | none => .error .undefinedEncoding
  | some i => if i.wellFormed v then .ok i else .error .laterVersion

/-- The first instruction of a sequence of bytes, and the bytes after it (R60, R80). -/
def decodeBytes (v : Config.Version) : List Byte → Except Reject (Instr × List Byte)
  | b0 :: b1 :: b2 :: b3 :: rest =>
    match decode v (wordOfBytes b0 b1 b2 b3) with
    | .ok i => .ok (i, rest)
    | .error e => .error e
  | _ => .error .tooShort

/-- The word whose bits are `w`, of which the opcode table gives `nbits`; every bit above them is 0. -/
def tableWord (nbits w : Nat) : Word := BitVec.ofNat 32 (w % 2 ^ nbits)

/-- The instruction that the decoder of the full ISA reads from the bytes of an instruction whose bits are `w`. -/
def decodeTableWord (nbits w : Nat) : Option Instr :=
  match decodeBytes .v4 (bytesOfWord (tableWord nbits w)) with
  | .ok (i, _) => some i
  | .error _ => none

/-! ## The encoder (R81 to R83, R88) -/

/-- An R-Type word (R81). -/
def rType (op : BitVec 6) (rs rt rd sa : BitVec 5) (func : BitVec 6) : Word := op ++ rs ++ rt ++ rd ++ sa ++ func

/-- An I-Type word (R82). -/
def iType (op : BitVec 6) (rs rt : BitVec 5) (imm : Imm16) : Word := op ++ rs ++ rt ++ imm

/-- A J-Type word (R83). -/
def jType (op : BitVec 6) (target : Target) : Word := op ++ target

/-- The word of an instruction, from the patterns of R88. -/
def encode : Instr → Word
  | .mfc0 rt rd => rType 0b010000#6 0b00000#5 rt rd 0b00000#5 0b000000#6
  | .mtc0 rt rd => rType 0b010000#6 0b00100#5 rt rd 0b00000#5 0b000000#6
  | .addu rd rs rt => rType 0b000000#6 rs rt rd 0b00000#5 0b100001#6
  | .subu rd rs rt => rType 0b000000#6 rs rt rd 0b00000#5 0b100011#6
  | .and rd rs rt => rType 0b000000#6 rs rt rd 0b00000#5 0b100100#6
  | .or rd rs rt => rType 0b000000#6 rs rt rd 0b00000#5 0b100101#6
  | .xor rd rs rt => rType 0b000000#6 rs rt rd 0b00000#5 0b100110#6
  | .nor rd rs rt => rType 0b000000#6 rs rt rd 0b00000#5 0b100111#6
  | .slt rd rs rt => rType 0b000000#6 rs rt rd 0b00000#5 0b101010#6
  | .sltu rd rs rt => rType 0b000000#6 rs rt rd 0b00000#5 0b101011#6
  | .srav rd rt rs => rType 0b000000#6 rs rt rd 0b00000#5 0b000111#6
  | .srlv rd rt rs => rType 0b000000#6 rs rt rd 0b00000#5 0b000110#6
  | .sllv rd rt rs => rType 0b000000#6 rs rt rd 0b00000#5 0b000100#6
  | .mul rd rs rt => rType 0b011100#6 rs rt rd 0b00000#5 0b000010#6
  | .div rd rs rt => rType 0b100111#6 rs rt rd 0b00000#5 0b000101#6
  | .divu rd rs rt => rType 0b100111#6 rs rt rd 0b00000#5 0b000111#6
  | .rem rd rs rt => rType 0b100111#6 rs rt rd 0b00000#5 0b000110#6
  | .remu rd rs rt => rType 0b100111#6 rs rt rd 0b00000#5 0b001000#6
  | .addiu rt rs imm => iType 0b001001#6 rs rt imm
  | .lui rt imm => iType 0b001111#6 0b00000#5 rt imm
  | .ori rt rs imm => iType 0b001101#6 rs rt imm
  | .andi rt rs imm => iType 0b001100#6 rs rt imm
  | .xori rt rs imm => iType 0b001110#6 rs rt imm
  | .slti rt rs imm => iType 0b001010#6 rs rt imm
  | .sltiu rt rs imm => iType 0b001011#6 rs rt imm
  | .sra rd rt sa => rType 0b000000#6 0b00000#5 rt rd sa 0b000011#6
  | .srl rd rt sa => rType 0b000000#6 0b00000#5 rt rd sa 0b000010#6
  | .sll rd rt sa => rType 0b000000#6 0b00000#5 rt rd sa 0b000000#6
  | .lw rt rs imm => iType 0b100011#6 rs rt imm
  | .lh rt rs imm => iType 0b100001#6 rs rt imm
  | .lhu rt rs imm => iType 0b100101#6 rs rt imm
  | .lb rt rs imm => iType 0b100000#6 rs rt imm
  | .lbu rt rs imm => iType 0b100100#6 rs rt imm
  | .sw rt rs imm => iType 0b101011#6 rs rt imm
  | .sh rt rs imm => iType 0b101001#6 rs rt imm
  | .sb rt rs imm => iType 0b101000#6 rs rt imm
  | .j target => jType 0b000010#6 target
  | .jr rs => rType 0b000000#6 rs 0b00000#5 0b00000#5 0b00000#5 0b001000#6
  | .jalr rd rs => rType 0b000000#6 rs 0b00000#5 rd 0b00000#5 0b001001#6
  | .jal target => jType 0b000011#6 target
  | .beq rs rt imm => iType 0b000100#6 rs rt imm
  | .bne rs rt imm => iType 0b000101#6 rs rt imm
  | .bgtz rs imm => iType 0b000111#6 rs 0b00000#5 imm
  | .bltz rs imm => iType 0b000001#6 rs 0b00000#5 imm
  | .bgez rs imm => iType 0b000001#6 rs 0b00001#5 imm
  | .blez rs imm => iType 0b000110#6 rs 0b00000#5 imm
  | .amoAdd rd rs rt => rType 0b100111#6 rs rt rd 0b00000#5 0b000010#6
  | .amoAnd rd rs rt => rType 0b100111#6 rs rt rd 0b00000#5 0b000011#6
  | .amoOr rd rs rt => rType 0b100111#6 rs rt rd 0b00000#5 0b000100#6
  | .sync => rType 0b000000#6 0b00000#5 0b00000#5 0b00000#5 0b00000#5 0b001111#6
  | .syscall => rType 0b000000#6 0b00000#5 0b00000#5 0b00000#5 0b00000#5 0b001100#6
  | .eret => rType 0b000000#6 0b00000#5 0b00000#5 0b00000#5 0b00000#5 0b011000#6

/-- The bytes of an instruction from the lowest address up (R60). -/
def encodeBytes (i : Instr) : List Byte := bytesOfWord (encode i)

end Sys2Proof
end

