-- ==== Sys2Proof/Machine/State.lean ====
section
/-! DEFINITION. The state of one core and of all that it can reach (spec/10_state.md R20 to R40), why a step can stop, and the
machine right after reset (R40, spec/70_reset_and_hazards.md R260). -/

namespace Sys2Proof.Machine

/-- The model faults of spec/93_implementation_defined.md section 2: points where the source defines no behaviour. Each
leaves the state as it was (spec/60_exceptions.md R234). All are safe: the model stops where a machine may go on. -/
inductive Fault where
  /-- Raised by the fetch-and-decode of a word that is no instruction of the machine's version (R97, R94, R3; U11, U12; safe). -/
  | undefinedInstruction
  /-- Raised by mfc0 and mtc0 on a register they have no defined access to (R30 to R36; U1 to U4, U13, U14; safe). -/
  | undefinedCP0Access
  /-- Raised by a halfword or word access at an address that is no multiple of its size: lw, lh, lhu, sw, sh, amo.add,
  amo.and, amo.or, and a fetch at such a pc, which no run reaches (R52, R53, R56; U10; safe). -/
  | misalignedData
  /-- Raised by jr and jalr on a target that is no multiple of 4 (R191, R192; U6; safe). -/
  | misalignedJumpTarget
  /-- Raised by jalr with equal link and target registers (R192; U5; safe). -/
  | jalrSameRegister
  /-- Raised by eret before any syscall, where the parameter `epcUnset` says so (R222; U16; safe; entry 2). -/
  | unsetEPC
  /-- Raised by the fetch of a word that a core has stored to since reset (R66, R269; U18; safe). -/
  | fetchOfModifiedCode
  deriving DecidableEq, Repr

/-- Why the model gives a step no meaning at all. -/
inductive Refusal where
  /-- Raised by an arm of exec whose instruction has no meaning yet; no arm is one now (safe). -/
  | notModelled (mnemonic : String)
  deriving DecidableEq, Repr

/-- The mode bit (R27): nothing reads it (spec/60_exceptions.md R240, D20; entry 25). -/
inductive Mode where
  | user | supervisor
  deriving DecidableEq, Repr

/-- What may happen next in the machine (R250: steps of the core, moves of the manager, R246, and stores of other cores that
reach the shared memory, R249, interleave in any order; DESIGN CHOICE, safe, entries 9, 10). -/
inductive Move where
  /-- The core takes a step. -/
  | core
  /-- The manager appends an item to mngr2proc. -/
  | send (v : Word)
  /-- The manager takes the head item of proc2mngr. -/
  | receive
  /-- Another core's word store becomes visible. -/
  | remoteWord (addr : Word) (v : Word)
  /-- Another core's halfword store becomes visible. -/
  | remoteHalf (addr : Word) (v : Half)
  /-- Another core's byte store becomes visible. -/
  | remoteByte (addr : Word) (v : Byte)
  deriving DecidableEq, Repr

/-- Memory: the bytes that are known, by physical address (R38), addresses strictly rising. An address that is not listed holds
the byte it held when the machine was started, of which nothing is known (R263; entry 7). -/
abbrev Memory := List Host.Cell

/-- The state of one core, of the memory it shares and of the agents around it. -/
structure State where
  /-- R[0] to R[31] (R21). Slot 0 stays 0: all reads and writes go through `readReg` and `setReg`. -/
  regs : Vector Word 32
  /-- The address of the instruction being executed (R24). -/
  pc : Word
  /-- The exception program counter (R26). -/
  epc : Word
  /-- A syscall has written `epc` since reset (spec/48_exception_instructions.md R222; entry 2). -/
  epcSet : Bool
  /-- The mode bit (R27). -/
  mode : Mode
  /-- stats_en, cpr21: the last value written (R33). -/
  statsEn : Word
  /-- numcores, cpr16: NUMCORES (R34). -/
  numcores : Word
  /-- coreid, cpr17: COREID of this core (R35). -/
  coreid : Word
  /-- The FIFO behind cpr1, head first: items sent by the manager and not yet read (R31, R39). -/
  mngr2proc : List Word
  /-- The FIFO behind cpr2, head first: items written and not yet taken by the manager (R32, R39). -/
  proc2mngr : List Word
  /-- The memory (R38). -/
  mem : Memory
  /-- The physical addresses stored to since reset, strictly rising (spec/20_memory.md R66; entry 19). -/
  modified : List Nat
  /-- The model's own: the implementation parameters (spec/00_scope.md R8; entry 5). No step changes them. -/
  cfg : Config.Params
  /-- The model's own: the moves still to come; with none left the core takes every step (R250; entry 10). -/
  agenda : List Move
  /-- The model's own: the items the manager has taken from proc2mngr, oldest first (R246; entry 10). -/
  received : List Word
  deriving DecidableEq, Repr

/-- What a step or an instruction answers. -/
abbrev Result := Host.Outcome State Fault Refusal

/-- The machine right after reset (R40). pc, R[0], the mode, numcores, coreid, the FIFOs and memory are R40's; the values of
R[1] to R[31], epc and stats_en are the model's (DESIGN CHOICE, unsafe, entries 1 to 3), as are the parameters (entries 2, 5,
6, 33) and the empty agenda (entry 10). IMAGE is empty here; `State.resetWith` takes any (R263; entry 26). -/
def State.reset : State where
  regs := Vector.replicate 32 0
  pc := Config.resetVector
  epc := 0
  epcSet := false
  mode := .supervisor
  statsEn := 0
  numcores := 1
  coreid := 0
  mngr2proc := []
  proc2mngr := []
  mem := []
  modified := []
  cfg := Config.Params.atReset
  agenda := []
  received := []

end Sys2Proof.Machine
end

