-- ==== Sys2Proof/Machine/Ops.lean ====
section
/-! DEFINITION. The shared operations: general registers, memory (spec/20_memory.md R50 to R56), coprocessor 0
(spec/10_state.md R30 to R36), and taking and returning from the one exception (spec/60_exceptions.md R232 to R236). -/

namespace Sys2Proof.Machine

/-! ## General registers (R21) -/

/-- `R[r]`: register 0 reads 0 whatever was written before (R21). -/
def State.readReg (s : State) (r : Reg) : Word := if r = 0 then 0 else s.regs[r.toNat]

/-- `R[r] <- v`: a write to register 0 is discarded (R21, D4; entry 30). -/
def State.setReg (s : State) (r : Reg) (v : Word) : State :=
  if r = 0 then s else { s with regs := s.regs.set r.toNat v }

/-! ## The program counter (R24, R25) -/

/-- The next instruction is the one at `t`. -/
def State.jumpTo (s : State) (t : Word) : State := { s with pc := t }

/-- The address of the next instruction in memory, modulo 2^32 (R25, D11; entry 20). -/
def State.nextPc (s : State) : Word := s.pc + 4

/-- `pc <- pc + 4`, what an instruction ends with unless its rule says otherwise (R25). -/
def State.advance (s : State) : State := s.jumpTo s.nextPc

/-- The end of an instruction whose result goes to one general register: the result written, then pc advances (R12, R25). -/
def State.writeBack (s : State) (rd : Reg) (v : Word) : State := (s.setReg rd v).advance

/-! ## Memory as data (R38) -/

/-- The byte listed at a physical address, none where no byte is listed. -/
def Memory.byte? : Memory → Nat → Option Byte
  | [], _ => none
  | (k, b) :: m, a => if k = a then some b else Memory.byte? m a

/-- `mem[a]`: the byte listed, else the byte the address holds since before reset, a free value (R52, R263; entry 7). -/
def Memory.byte (m : Memory) (a : Nat) : Byte := (m.byte? a).getD (Config.ramByte a)

/-- The halfword at physical address `p`, little-endian (R51, R52). -/
def Memory.half (m : Memory) (p : Nat) : Half := m.byte (p + 1) ++ m.byte p

/-- The word at physical address `p`, little-endian (R51, R52). -/
def Memory.word (m : Memory) (p : Nat) : Word := wordOfBytes (m.byte p) (m.byte (p + 1)) (m.byte (p + 2)) (m.byte (p + 3))

/-- `mem[a] <- b`, keeping the addresses strictly rising (R53). -/
def Memory.write : Memory → Nat → Byte → Memory
  | [], a, b => [(a, b)]
  | (k, c) :: m, a, b =>
    if a < k then (a, b) :: (k, c) :: m
    else if a = k then (a, b) :: m
    else (k, c) :: Memory.write m a b

/-- `mem[a], mem[a + 1], ... <- bs` (R53). -/
def Memory.writeBytes : Memory → Nat → List Byte → Memory
  | m, _, [] => m
  | m, a, b :: bs => Memory.writeBytes (m.write a b) (a + 1) bs

/-- The canonical form: addresses strictly rising. An unlisted address reads as no listed byte at all, so no entry repeats it. -/
abbrev Memory.wf (m : Memory) : Prop := m.Pairwise (fun c d => c.1 < d.1)

/-- A set of addresses with `a` added, kept strictly rising. -/
def addAddress : List Nat → Nat → List Nat
  | [], a => [a]
  | k :: ks, a => if a < k then a :: k :: ks else if a = k then k :: ks else k :: addAddress ks a

/-- A set of addresses with `a, a + 1, ..., a + n - 1` added. -/
def addAddresses : List Nat → Nat → Nat → List Nat
  | ks, _, 0 => ks
  | ks, a, n + 1 => addAddresses (addAddress ks a) (a + 1) n

/-- The canonical form of a set of addresses: strictly rising. -/
abbrev addressesWf (ks : List Nat) : Prop := ks.Pairwise (· < ·)

/-! ## Memory accesses (R52 to R56) -/

/-- `addr[PADDR_BITS-1 : 0]`: the physical address of an address (R55, D36; entry 34). -/
def State.paddr (s : State) (a : Word) : Nat := a.toNat % 2 ^ s.cfg.paddrBits

/-- `addr mod n = 0` (R52, R53). -/
def aligned (a : Word) (n : Nat) : Bool := a.toNat % n == 0

/-- The access if the address is a multiple of its size, else MisalignedData (R56, D12; entry 16). -/
def ifAligned {α : Type} (a : Word) (n : Nat) (access : α) : Except Fault α :=
  if aligned a n then .ok access else .error .misalignedData

/-- `MemRead(a, 4)` (R52). -/
def State.loadWord (s : State) (a : Word) : Except Fault Word := ifAligned a 4 (s.mem.word (s.paddr a))

/-- `MemRead(a, 2)` (R52). -/
def State.loadHalf (s : State) (a : Word) : Except Fault Half := ifAligned a 2 (s.mem.half (s.paddr a))

/-- `MemRead(a, 1)` (R52): a byte access is always aligned (R56). -/
def State.loadByte (s : State) (a : Word) : Byte := s.mem.byte (s.paddr a)

/-- The bytes `bs` stored from physical address `p` up, and remembered as stored to (R53, R66). -/
def State.storeBytes (s : State) (p : Nat) (bs : List Byte) : State :=
  { s with mem := s.mem.writeBytes p bs, modified := addAddresses s.modified p bs.length }

/-- The two bytes of a halfword from the lowest address up (R51). -/
def bytesOfHalf (h : Half) : List Byte := [h.extractLsb' 0 8, h.extractLsb' 8 8]

/-- `MemWrite(a, 4, v)` (R53). -/
def State.storeWord (s : State) (a : Word) (v : Word) : Except Fault State :=
  ifAligned a 4 (s.storeBytes (s.paddr a) (bytesOfWord v))

/-- `MemWrite(a, 2, v)` (R53). -/
def State.storeHalf (s : State) (a : Word) (v : Half) : Except Fault State :=
  ifAligned a 2 (s.storeBytes (s.paddr a) (bytesOfHalf v))

/-- `MemWrite(a, 1, v)` (R53). -/
def State.storeByte (s : State) (a : Word) (v : Byte) : State := s.storeBytes (s.paddr a) [v]

/-- An instruction whose memory access may be misaligned: it completes with `k` of the access, or faults (R234). -/
def complete {α : Type} (access : Except Fault α) (k : α → State) : Result :=
  match access with
  | .ok a => .next (k a)
  | .error f => .fault f

/-! ## Coprocessor 0 (R30 to R36; spec/40_cp0_moves.md R112) -/

/-- How an access to a coprocessor 0 register ends: done, held on a FIFO (R268), or undefined. -/
inductive Cp0Access (α : Type) where
  | done (a : α)
  | hold
  | fault (f : Fault)
  deriving DecidableEq, Repr

/-- A FIFO with these items has room for one more: "not ready" is full (R32, D19; entry 28). -/
def State.hasRoom (s : State) (q : List Word) : Bool := s.cfg.fifoDepth.all (q.length < ·)

/-- The machine is of version `v` or a later one (R3, R112). -/
def State.hasVersion (s : State) (v : Config.Version) : Bool := v.le s.cfg.version

/-- A read of mngr2proc dequeues the head of its FIFO, and holds while the FIFO is empty (R31). -/
def State.dequeueMngr (s : State) : Cp0Access (Word × State) :=
  match s.mngr2proc with
  | [] => .hold
  | v :: rest => .done (v, { s with mngr2proc := rest })

/-- A write of proc2mngr enqueues at the tail of its FIFO, and holds while the FIFO is full (R32). -/
def State.enqueueProc (s : State) (v : Word) : Cp0Access State :=
  if s.hasRoom s.proc2mngr then .done { s with proc2mngr := s.proc2mngr ++ [v] } else .hold

/-- A read of stats_en is what STATS_EN_READ says (R33, D18; entry 6). -/
def State.readStatsEn (s : State) : Cp0Access (Word × State) :=
  match s.cfg.statsRead with
  | .lastWritten => .done (s.statsEn, s)
  | .refuse => .fault .undefinedCP0Access

/-- The read if the machine's version has the register, else an undefined access (R112, R36). -/
def State.fromVersion {α : Type} (s : State) (v : Config.Version) (access : Cp0Access α) : Cp0Access α :=
  if s.hasVersion v then access else .fault .undefinedCP0Access

/-- `CP0read(n)` (R30): the value read and the state after the read; undefined at proc2mngr and at the undocumented numbers (D17; entry 18). -/
def State.cp0Read (s : State) (n : CpReg) : Cp0Access (Word × State) :=
  match n with
  | 1#5 => s.dequeueMngr
  | 16#5 => s.fromVersion .v3 (.done (s.numcores, s))
  | 17#5 => s.fromVersion .v3 (.done (s.coreid, s))
  | 21#5 => s.fromVersion .v2 s.readStatsEn
  | _ => .fault .undefinedCP0Access

/-- `CP0write(n, v)` (R30): undefined at mngr2proc, numcores, coreid and the undocumented numbers (D17; entry 18). -/
def State.cp0Write (s : State) (n : CpReg) (v : Word) : Cp0Access State :=
  match n with
  | 2#5 => s.enqueueProc v
  | 21#5 => s.fromVersion .v2 (.done { s with statsEn := v })
  | _ => .fault .undefinedCP0Access

/-- An instruction whose coprocessor access may hold: it completes with `k` of the access; a hold changes nothing and the same
instruction is tried again (R11, R250, R268; entry 11). -/
def State.finish {α : Type} (s : State) (access : Cp0Access α) (k : α → State) : Result :=
  match access with
  | .done a => .next (k a)
  | .hold => .next s
  | .fault f => .fault f

/-! ## The exception (spec/60_exceptions.md R232, R235, R236) -/

/-- `raise Syscall`: `epc <- pc`, the syscall's own address, `mode <- supervisor`, `pc <- 0x00000004`, in either mode (R232,
R235, R237; C10, entry 24). -/
def State.takeSyscall (s : State) : State :=
  { s with epc := s.pc, epcSet := true, mode := .supervisor, pc := Config.syscallVector }

/-- eret may read epc: a syscall has written it (R222), or the machine goes on with the value it holds since reset (D35;
DESIGN CHOICE, unsafe, entry 2). -/
def State.epcReadable (s : State) : Bool := s.epcSet || s.cfg.epcUnset == .resetValue

/-- The return: `mode <- user`, `pc <- epc`, in either mode; epc stays (R236, spec/48_exception_instructions.md R222). -/
def State.returnFromException (s : State) : State := { s with mode := .user, pc := s.epc }

end Sys2Proof.Machine
end

