-- ==== Sys2Proof/Machine/Agents.lean ====
section
/-! DEFINITION. The agents beside the core: the manager (spec/60_exceptions.md R246, R247) and the other cores (R249). -/

namespace Sys2Proof.Machine

/-- The move can take place (R246: send while the FIFO has room, receive while it is not empty; another core's access is
aligned, R56, and there is another core, R249; a step of the core is no move of another agent). -/
def State.enabled (s : State) : Move → Bool
  | .core => false
  | .send _ => s.hasRoom s.mngr2proc
  | .receive => !s.proc2mngr.isEmpty
  | .remoteWord a _ => 1 < s.numcores.toNat && aligned a 4
  | .remoteHalf a _ => 1 < s.numcores.toNat && aligned a 2
  | .remoteByte _ _ => 1 < s.numcores.toNat

/-- The manager takes the head of proc2mngr (R246). -/
def State.managerReceive (s : State) : State :=
  match s.proc2mngr with
  | [] => s
  | v :: rest => { s with proc2mngr := rest, received := s.received ++ [v] }

/-- The effect of a move of another agent (R246; spec/20_memory.md R61, R65: an aligned store arrives as one event). -/
def State.perform (s : State) : Move → State
  | .core => s
  | .send v => { s with mngr2proc := s.mngr2proc ++ [v] }
  | .receive => s.managerReceive
  | .remoteWord a v => s.storeBytes (s.paddr a) (bytesOfWord v)
  | .remoteHalf a v => s.storeBytes (s.paddr a) (bytesOfHalf v)
  | .remoteByte a v => s.storeBytes (s.paddr a) [v]

/-- Who moves: the core, in the state given, or another agent, which leaves the state given. -/
inductive Turn where
  | core (s : State)
  | agent (s : State)
  deriving DecidableEq, Repr

/-- The next turn: the first move of the agenda if it is enabled. A move that is not yet enabled waits there and the core
takes its step, as it does when the agenda is empty (R247: a move may be delayed at will; entry 10). -/
def State.turn (s : State) : Turn :=
  match s.agenda with
  | [] => .core s
  | .core :: rest => .core { s with agenda := rest }
  | m :: rest => if s.enabled m then .agent (State.perform { s with agenda := rest } m) else .core s

end Sys2Proof.Machine
end

