-- ==== Sys2Proof/Machine/Flags.lean ====
section
/-! DEFINITION. The machine has no flags (spec/10_state.md R20). What stands in their place: the comparisons that slt and its
kin write to a register and that branches test (spec/00_scope.md R11; spec/42_muldiv.md R145: they are exact). -/

namespace Sys2Proof.Machine

/-- `bool(c)`: 1 if true, else 0 (R11, D6; PRESUMED, unsafe, entry 21). -/
def boolWord (c : Bool) : Word := if c then 1 else 0

/-- `a <s b`: the comparison of the signed values (R11). -/
def ltSigned (a b : Word) : Bool := a.toInt < b.toInt

/-- `a <u b`: the comparison of the unsigned values (R11). -/
def ltUnsigned (a b : Word) : Bool := a.toNat < b.toNat

/-- `signed(a) > 0` (spec/46_branches.md R203). -/
def isPositive (a : Word) : Bool := 0 < a.toInt

/-- `signed(a) < 0` (R204). -/
def isNegative (a : Word) : Bool := a.toInt < 0

/-- `signed(a) >= 0` (R205, C8). -/
def isNonNegative (a : Word) : Bool := 0 ≤ a.toInt

/-- `signed(a) <= 0` (R206, C8). -/
def isNonPositive (a : Word) : Bool := a.toInt ≤ 0

end Sys2Proof.Machine
end

