-- ==== Sys2Proof/Machine/Operands.lean ====
section
/-! DEFINITION. How an operand is made from a field of the instruction (spec/30_encoding.md R84), the one addressing mode
(spec/44_memory_instructions.md R170), and the arithmetic whose operands have corners (spec/41_reg_reg_arith.md R128,
spec/42_muldiv.md R140 to R144). -/

namespace Sys2Proof.Machine

/-! ## Immediates (R84) -/

/-- `sext_32(imm)` (R84). -/
def sextImm (imm : Imm16) : Word := imm.signExtend 32

/-- `zext_32(imm)` (R84). -/
def zextImm (imm : Imm16) : Word := imm.zeroExtend 32

/-- The upper immediate, with 16 zeros below (R84). -/
def upperImm (imm : Imm16) : Word := imm ++ 0#16

/-! ## Addresses and targets -/

/-- `ea`: base register plus sign-extended displacement, modulo 2^32 (R170, D11). -/
def State.effAddr (s : State) (rs : Reg) (imm : Imm16) : Word := s.readReg rs + sextImm imm

/-- The branch target `pc + 4 + (sext_32(imm) << 2)`, modulo 2^32 (spec/46_branches.md R200). -/
def State.branchTarget (s : State) (imm : Imm16) : Word := s.nextPc + (sextImm imm <<< 2)

/-- The jump target: bits 31:28 of `pc + 4`, the field, 00 (R84, spec/45_jumps.md R190). -/
def State.jumpTarget (s : State) (target : Target) : Word := s.nextPc.extractLsb' 28 4 ++ target ++ 0#2

/-! ## Shifts -/

/-- The amount that srav, srlv, sllv take from a register (R128, D7; entry 29). Of the whole register only "32 or more"
matters: a shift by 32 already leaves nothing but zeros, or copies of the sign bit. -/
def State.shiftAmount (s : State) (rs : Reg) : Nat :=
  match s.cfg.shiftAmount with
  | .low5 => (s.readReg rs).toNat % 32
  | .full => min (s.readReg rs).toNat 32

/-! ## Multiply and divide -/

/-- The low 32 bits of the signed product (R140). -/
def mulLow (a b : Word) : Word := BitVec.ofInt 32 (a.toInt * b.toInt)

/-- The operands of a signed division with no stated result: a zero divisor, and -2^31 / -1 (R141, R143). -/
def signedCorner (a b : Word) : Bool := b == 0 || (a == 0x80000000 && b == 0xFFFFFFFF)

/-- Signed quotient, rounded toward zero (R141; D8, PRESUMED, unsafe, entry 22), with DIV_CORNER at the corners (D9, entry 8). -/
def divSigned (a b : Word) : Word :=
  if signedCorner a b then Config.divCorner .div a b else BitVec.ofInt 32 (a.toInt.tdiv b.toInt)

/-- Unsigned quotient (R142), with DIV_CORNER at a zero divisor. -/
def divUnsigned (a b : Word) : Word :=
  if b == 0 then Config.divCorner .divu a b else BitVec.ofNat 32 (a.toNat / b.toNat)

/-- Signed remainder `a - b * trunc(a / b)`, which has the sign of `a` (R143; D8, PRESUMED, unsafe, entry 22). -/
def remSigned (a b : Word) : Word :=
  if signedCorner a b then Config.divCorner .rem a b
  else BitVec.ofInt 32 (a.toInt - b.toInt * a.toInt.tdiv b.toInt)

/-- Unsigned remainder (R144), with DIV_CORNER at a zero divisor. -/
def remUnsigned (a b : Word) : Word :=
  if b == 0 then Config.divCorner .remu a b else BitVec.ofNat 32 (a.toNat % b.toNat)

end Sys2Proof.Machine
end

