-- ==== Sys2Proof/Machine/Branches.lean ====
section
/-! DEFINITION. Conditional branches (spec/46_branches.md): no delay slot. -/

namespace Sys2Proof.Machine

/-- The branch target if the condition holds, else the next instruction (R200). -/
def State.branchIf (s : State) (condition : Bool) (imm : Imm16) : Result :=
  .next (s.jumpTo (if condition then s.branchTarget imm else s.nextPc))

/-- `beq`: if `R[rs] = R[rt]` (R201). -/
def execBeq (rs rt : Reg) (imm : Imm16) (s : State) : Result :=
  s.branchIf (s.readReg rs == s.readReg rt) imm

/-- `bne`: if `R[rs] != R[rt]` (R202). -/
def execBne (rs rt : Reg) (imm : Imm16) (s : State) : Result :=
  s.branchIf (s.readReg rs != s.readReg rt) imm

/-- `bgtz`: if `signed(R[rs]) > 0` (R203). -/
def execBgtz (rs : Reg) (imm : Imm16) (s : State) : Result := s.branchIf (isPositive (s.readReg rs)) imm

/-- `bltz`: if `signed(R[rs]) < 0` (R204). -/
def execBltz (rs : Reg) (imm : Imm16) (s : State) : Result := s.branchIf (isNegative (s.readReg rs)) imm

/-- `bgez`: if `signed(R[rs]) >= 0` (R205). -/
def execBgez (rs : Reg) (imm : Imm16) (s : State) : Result := s.branchIf (isNonNegative (s.readReg rs)) imm

/-- `blez`: if `signed(R[rs]) <= 0` (R206). -/
def execBlez (rs : Reg) (imm : Imm16) (s : State) : Result := s.branchIf (isNonPositive (s.readReg rs)) imm

end Sys2Proof.Machine
end

