-- ==== Sys2Proof/Machine/Concurrency.lean ====
section
/-! DEFINITION. Atomic memory operations and the fence (spec/47_concurrency.md). -/

namespace Sys2Proof.Machine

/-- The shape of the three atomics (R209): the word at `R[rs]` becomes `op` of itself and `R[rt]`, and `rd` receives the old
word. One step, so no other store falls between the read and the write (spec/20_memory.md R64). -/
def State.fetchAndOp (s : State) (rd rs rt : Reg) (op : Word → Word → Word) : Result :=
  complete (s.loadWord (s.readReg rs)) fun temp =>
    (s.storeBytes (s.paddr (s.readReg rs)) (bytesOfWord (op temp (s.readReg rt)))).writeBack rd temp

/-- `amo.add`: fetch and add, modulo 2^32 (R210). -/
def execAmoAdd (rd rs rt : Reg) (s : State) : Result := s.fetchAndOp rd rs rt (· + ·)

/-- `amo.and`: fetch and bitwise and (R211, C12). -/
def execAmoAnd (rd rs rt : Reg) (s : State) : Result := s.fetchAndOp rd rs rt (· &&& ·)

/-- `amo.or`: fetch and bitwise or (R212, C7). -/
def execAmoOr (rd rs rt : Reg) (s : State) : Result := s.fetchAndOp rd rs rt (· ||| ·)

/-- `sync`: in a core whose every access is complete before its next instruction starts, it only advances pc (R213,
spec/20_memory.md R63; DEDUCED, safe, entry 12). -/
def execSync (s : State) : Result := .next s.advance

end Sys2Proof.Machine
end

