-- ==== Sys2Proof/Machine/Cp0.lean ====
section
/-! DEFINITION. The coprocessor 0 moves (spec/40_cp0_moves.md). -/

namespace Sys2Proof.Machine

/-- `mfc0`: `R[rt] <- CP0read(rd)`; holds or faults as the read does (R110). With rt = 0 the read still happens (D34). -/
def execMfc0 (rt : Reg) (rd : CpReg) (s : State) : Result :=
  s.finish (s.cp0Read rd) fun read => read.2.writeBack rt read.1

/-- `mtc0`: `CP0write(rd, R[rt])`; holds or faults as the write does (R111). -/
def execMtc0 (rt : Reg) (rd : CpReg) (s : State) : Result :=
  s.finish (s.cp0Write rd (s.readReg rt)) State.advance

end Sys2Proof.Machine
end

