-- ==== Sys2Proof/Machine/Exceptions.lean ====
section
/-! DEFINITION. The exception instructions (spec/48_exception_instructions.md). -/

namespace Sys2Proof.Machine

/-- `syscall`: raises Syscall, unconditionally (R221). -/
def execSyscall (s : State) : Result := .next s.takeSyscall

/-- `eret`: returns to the address in epc, in either mode (D23). Before any syscall it does so too, or it is the fault of its
rule, "if epc has never been written then fault UnsetEPC", as the parameter `epcUnset` says (R222, U16, D35; entry 2). -/
def execEret (s : State) : Result :=
  if s.epcReadable then .next s.returnFromException else .fault .unsetEPC

end Sys2Proof.Machine
end

