-- ==== Sys2Proof/Machine/Jumps.lean ====
section
/-! DEFINITION. Unconditional jumps (spec/45_jumps.md): no delay slot (R189). -/

namespace Sys2Proof.Machine

/-- `j`: to the target of the field (R190). -/
def execJ (target : Target) (s : State) : Result := .next (s.jumpTo (s.jumpTarget target))

/-- `jr`: to the address in `R[rs]`, which must be a multiple of 4 (R191, D13; entry 17). -/
def execJr (rs : Reg) (s : State) : Result :=
  if aligned (s.readReg rs) 4 then .next (s.jumpTo (s.readReg rs)) else .fault .misalignedJumpTarget

/-- `jalr`: `R[rd] <- pc + 4`, then to the address `R[rs]` held; the registers must differ, register 0 included, and the
target must be a multiple of 4 (R192, D13, D24; the order of the two checks is R192's; entry 17). -/
def execJalr (rd rs : Reg) (s : State) : Result :=
  if rd = rs then .fault .jalrSameRegister
  else if aligned (s.readReg rs) 4 then .next ((s.setReg rd s.nextPc).jumpTo (s.readReg rs))
  else .fault .misalignedJumpTarget

/-- `jal`: `R[31] <- pc + 4`, then to the target of the field (R193). -/
def execJal (target : Target) (s : State) : Result :=
  .next ((s.setReg 31 s.nextPc).jumpTo (s.jumpTarget target))

end Sys2Proof.Machine
end

