-- ==== Sys2Proof/Machine/LoadStore.lean ====
section
/-! DEFINITION. Loads and stores (spec/44_memory_instructions.md): base plus sign-extended displacement (R170). With rt = 0 a load still
makes its access (D34). -/

namespace Sys2Proof.Machine

/-- `lw`: the word at `ea` (R171). -/
def execLw (rt rs : Reg) (imm : Imm16) (s : State) : Result :=
  complete (s.loadWord (s.effAddr rs imm)) fun v => s.writeBack rt v

/-- `lh`: the halfword at `ea`, sign-extended (R172). -/
def execLh (rt rs : Reg) (imm : Imm16) (s : State) : Result :=
  complete (s.loadHalf (s.effAddr rs imm)) fun h => s.writeBack rt (h.signExtend 32)

/-- `lhu`: the halfword at `ea`, zero-extended (R173). -/
def execLhu (rt rs : Reg) (imm : Imm16) (s : State) : Result :=
  complete (s.loadHalf (s.effAddr rs imm)) fun h => s.writeBack rt (h.zeroExtend 32)

/-- `lb`: the byte at `ea`, sign-extended (R174). -/
def execLb (rt rs : Reg) (imm : Imm16) (s : State) : Result :=
  .next (s.writeBack rt ((s.loadByte (s.effAddr rs imm)).signExtend 32))

/-- `lbu`: the byte at `ea`, zero-extended (R175). -/
def execLbu (rt rs : Reg) (imm : Imm16) (s : State) : Result :=
  .next (s.writeBack rt ((s.loadByte (s.effAddr rs imm)).zeroExtend 32))

/-- `sw`: `MemWrite(ea, 4, R[rt])` (R176). -/
def execSw (rt rs : Reg) (imm : Imm16) (s : State) : Result :=
  complete (s.storeWord (s.effAddr rs imm) (s.readReg rt)) State.advance

/-- `sh`: `MemWrite(ea, 2, R[rt][15:0])`; the low bits are D10's (R177). -/
def execSh (rt rs : Reg) (imm : Imm16) (s : State) : Result :=
  complete (s.storeHalf (s.effAddr rs imm) ((s.readReg rt).extractLsb' 0 16)) State.advance

/-- `sb`: `MemWrite(ea, 1, R[rt][7:0])`; the low bits are D10's (R178). -/
def execSb (rt rs : Reg) (imm : Imm16) (s : State) : Result :=
  .next ((s.storeByte (s.effAddr rs imm) ((s.readReg rt).extractLsb' 0 8)).advance)


end Sys2Proof.Machine
end

