-- ==== Sys2Proof/Machine/MulDiv.lean ====
section
/-! DEFINITION. Multiply, divide and remainder (spec/42_muldiv.md). -/

namespace Sys2Proof.Machine

/-- `mul`: the low 32 bits of the product of `R[rs]` and `R[rt]` (R140). -/
def execMul (rd rs rt : Reg) (s : State) : Result :=
  .next (s.writeBack rd (mulLow (s.readReg rs) (s.readReg rt)))

/-- `div`: the signed quotient of `R[rs]` and `R[rt]` (R141). -/
def execDiv (rd rs rt : Reg) (s : State) : Result :=
  .next (s.writeBack rd (divSigned (s.readReg rs) (s.readReg rt)))

/-- `divu`: the unsigned quotient of `R[rs]` and `R[rt]` (R142). -/
def execDivu (rd rs rt : Reg) (s : State) : Result :=
  .next (s.writeBack rd (divUnsigned (s.readReg rs) (s.readReg rt)))

/-- `rem`: the signed remainder of `R[rs]` and `R[rt]` (R143). -/
def execRem (rd rs rt : Reg) (s : State) : Result :=
  .next (s.writeBack rd (remSigned (s.readReg rs) (s.readReg rt)))

/-- `remu`: the unsigned remainder of `R[rs]` and `R[rt]` (R144). -/
def execRemu (rd rs rt : Reg) (s : State) : Result :=
  .next (s.writeBack rd (remUnsigned (s.readReg rs) (s.readReg rt)))


end Sys2Proof.Machine
end

