-- ==== Sys2Proof/Machine/RegImm.lean ====
section
/-! DEFINITION. Register-immediate arithmetic (spec/43_reg_imm_arith.md). -/

namespace Sys2Proof.Machine

/-- `addiu`: the sum with the sign-extended immediate, modulo 2^32, no trap (R150). -/
def execAddiu (rt rs : Reg) (imm : Imm16) (s : State) : Result :=
  .next (s.writeBack rt (s.readReg rs + sextImm imm))

/-- `lui`: the immediate in the upper half, zeros below (R151). -/
def execLui (rt : Reg) (imm : Imm16) (s : State) : Result :=
  .next (s.writeBack rt (upperImm imm))

/-- `ori`: or with the zero-extended immediate (R152). -/
def execOri (rt rs : Reg) (imm : Imm16) (s : State) : Result :=
  .next (s.writeBack rt (s.readReg rs ||| zextImm imm))

/-- `andi`: and with the zero-extended immediate (R153). -/
def execAndi (rt rs : Reg) (imm : Imm16) (s : State) : Result :=
  .next (s.writeBack rt (s.readReg rs &&& zextImm imm))

/-- `xori`: exclusive or with the zero-extended immediate (R154). -/
def execXori (rt rs : Reg) (imm : Imm16) (s : State) : Result :=
  .next (s.writeBack rt (s.readReg rs ^^^ zextImm imm))

/-- `slti`: 1 when `R[rs] <s sext_32(imm)`, else 0 (R155). -/
def execSlti (rt rs : Reg) (imm : Imm16) (s : State) : Result :=
  .next (s.writeBack rt (boolWord (ltSigned (s.readReg rs) (sextImm imm))))

/-- `sltiu`: 1 when `R[rs] <u sext_32(imm)`, else 0: sign extension first, then an unsigned comparison (R156, C13). -/
def execSltiu (rt rs : Reg) (imm : Imm16) (s : State) : Result :=
  .next (s.writeBack rt (boolWord (ltUnsigned (s.readReg rs) (sextImm imm))))

/-- `sra`: `R[rt]` shifted right by the constant, bit 31 copied in (R157). -/
def execSra (rd rt : Reg) (sa : Shamt) (s : State) : Result :=
  .next (s.writeBack rd ((s.readReg rt).sshiftRight sa.toNat))

/-- `srl`: `R[rt]` shifted right by the constant, zeros entering (R158). -/
def execSrl (rd rt : Reg) (sa : Shamt) (s : State) : Result :=
  .next (s.writeBack rd (s.readReg rt >>> sa.toNat))

/-- `sll`: `R[rt]` shifted left by the constant, zeros entering; all fields zero: a no-operation, R99 (R159). -/
def execSll (rd rt : Reg) (sa : Shamt) (s : State) : Result :=
  .next (s.writeBack rd (s.readReg rt <<< sa.toNat))


end Sys2Proof.Machine
end

