-- ==== Sys2Proof/Machine/RegReg.lean ====
section
/-! DEFINITION. Register-register arithmetic (spec/41_reg_reg_arith.md). -/

namespace Sys2Proof.Machine

/-- `addu`: the sum modulo 2^32, no trap (R120). -/
def execAddu (rd rs rt : Reg) (s : State) : Result :=
  .next (s.writeBack rd (s.readReg rs + s.readReg rt))

/-- `subu`: the difference modulo 2^32, no trap (R121). -/
def execSubu (rd rs rt : Reg) (s : State) : Result :=
  .next (s.writeBack rd (s.readReg rs - s.readReg rt))

/-- `and`: bitwise and (R122). -/
def execAnd (rd rs rt : Reg) (s : State) : Result :=
  .next (s.writeBack rd (s.readReg rs &&& s.readReg rt))

/-- `or`: bitwise or (R123). -/
def execOr (rd rs rt : Reg) (s : State) : Result :=
  .next (s.writeBack rd (s.readReg rs ||| s.readReg rt))

/-- `xor`: bitwise exclusive or (R124). -/
def execXor (rd rs rt : Reg) (s : State) : Result :=
  .next (s.writeBack rd (s.readReg rs ^^^ s.readReg rt))

/-- `nor`: the complement of the or, all 32 bits (R125). -/
def execNor (rd rs rt : Reg) (s : State) : Result :=
  .next (s.writeBack rd (~~~(s.readReg rs ||| s.readReg rt)))

/-- `slt`: 1 when `R[rs] <s R[rt]`, else 0 (R126). -/
def execSlt (rd rs rt : Reg) (s : State) : Result :=
  .next (s.writeBack rd (boolWord (ltSigned (s.readReg rs) (s.readReg rt))))

/-- `sltu`: 1 when `R[rs] <u R[rt]`, else 0 (R127). -/
def execSltu (rd rs rt : Reg) (s : State) : Result :=
  .next (s.writeBack rd (boolWord (ltUnsigned (s.readReg rs) (s.readReg rt))))

/-- `srav`: `R[rt]` shifted right, bit 31 copied in; the amount is from `R[rs]` (R128). -/
def execSrav (rd rt rs : Reg) (s : State) : Result :=
  .next (s.writeBack rd ((s.readReg rt).sshiftRight (s.shiftAmount rs)))

/-- `srlv`: `R[rt]` shifted right, zeros entering at bit 31; the amount is from `R[rs]` (R129). -/
def execSrlv (rd rt rs : Reg) (s : State) : Result :=
  .next (s.writeBack rd (s.readReg rt >>> s.shiftAmount rs))

/-- `sllv`: `R[rt]` shifted left, zeros entering at bit 0; the amount is from `R[rs]` (R130). -/
def execSllv (rd rt rs : Reg) (s : State) : Result :=
  .next (s.writeBack rd (s.readReg rt <<< s.shiftAmount rs))


end Sys2Proof.Machine
end

