-- ==== Sys2Proof/Machine/Fetch.lean ====
section
/-! DEFINITION. Fetching an instruction (spec/20_memory.md R60, R66), and placing one to be fetched next. -/

namespace Sys2Proof.Machine

/-- The word at `pc`, unless a byte of it has been stored to since reset (spec/20_memory.md R60, R66; the order of the checks is
spec/60_exceptions.md R234; entries 19, 31). -/
def State.fetch (s : State) : Except Fault Word :=
  if s.modified.any fun a => s.paddr s.pc ≤ a && a < s.paddr s.pc + 4 then .error .fetchOfModifiedCode
  else s.loadWord s.pc

/-- The instruction at `pc` in a machine of this version, else UndefinedInstruction (R250, spec/30_encoding.md R97). -/
def State.fetchInstr (s : State) : Except Fault Instr :=
  match s.fetch with
  | .error f => .error f
  | .ok w =>
    match decode s.cfg.version w with
    | .ok i => .ok i
    | .error _ => .error .undefinedInstruction

/-- The word `w` placed in any state where the next fetch reads it, so that one instruction can be run on its own: at `pc`,
which a fetch needs to be a multiple of 4, its bytes no longer counted as stored to, and the core to move next. It is no
move of the machine and no loader: how a program is loaded is `State.resetWith` (R263; entry 26). -/
def State.placeWord (s : State) (w : Word) : State :=
  let pc := s.pc &&& 0xFFFFFFFC
  let p := s.paddr pc
  { s with
    pc := pc
    mem := s.mem.writeBytes p (bytesOfWord w)
    modified := s.modified.filter fun a => a < p || p + 4 ≤ a
    agenda := [] }

end Sys2Proof.Machine
end

