-- ==== Sys2Proof/Machine/Step.lean ====
section
/-! DEFINITION. One step of the machine (spec/60_exceptions.md R250). -/

namespace Sys2Proof.Machine

/-- A step of the core: fetch the instruction at pc, decode it, apply its rule (R250). -/
def coreStep (s : State) : Result :=
  match s.fetchInstr with
  | .error f => .fault f
  | .ok i => exec i s

/-- One step: a move of another agent, or a step of the core, as the agenda says (R250). -/
def step (s : State) : Host.Outcome State Fault Refusal :=
  match s.turn with
  | .agent t => .next t
  | .core t => coreStep t

/-- The state whose next step fetches and runs the instruction whose bits are `w` (entry 26). -/
def State.withFetchWord (s : State) (nbits w : Nat) : State := s.placeWord (tableWord nbits w)

end Sys2Proof.Machine
end

