-- ==== Sys2Proof/Machine/Image.lean ====
section
/-! DEFINITION. IMAGE, the program and data that the loader places before the first step, and the machine right after reset
with it in memory (spec/70_reset_and_hazards.md R263, R260; spec/10_state.md R40; spec/00_scope.md R8). -/

namespace Sys2Proof.Machine

/-- `IMAGE`: a finite partial map from physical addresses to bytes, as the list of its pairs (R263, R8, D28; entry 26). -/
abbrev Image := List Host.Cell

/-- The list is a map of physical addresses of `paddrBits` bits: no address twice, none out of range (R263, R38). -/
def Image.wf (image : Image) (paddrBits : Nat) : Bool :=
  decide (image.map (·.1)).Nodup && image.all fun c => c.1 < 2 ^ paddrBits

/-- The bytes `bs` at the addresses from `p` up. -/
def cellsFrom : Nat → List Byte → Image
  | _, [] => []
  | p, b :: bs => (p, b) :: cellsFrom (p + 1) bs

/-- The words `ws` one after another from address `p` up, each little-endian (R263, spec/20_memory.md R60). -/
def imageOfWords : Nat → List Word → Image
  | _, [] => []
  | p, w :: ws => cellsFrom p (bytesOfWord w) ++ imageOfWords (p + 4) ws

/-- Memory with the bytes of an image placed in it. The loader is no core: nothing counts as stored to (R263, R66). -/
def Memory.load : Memory → Image → Memory
  | m, [] => m
  | m, c :: image => Memory.load (m.write c.1 c.2) image

/-- The machine right after reset, before the first step, for every choice of the parameters of R8 that are data: the table of
R40, with `IMAGE` in memory and no other byte known (R263). No move of the machine loads anything, so the loader takes no
step after this. `State.reset` is the case of the parameters that entries 2, 5, 6 and 33 name and of the empty image. -/
def State.resetWith (p : Config.Params) (numcores coreid : Word) (image : Image) : State :=
  { State.reset with cfg := p, numcores := numcores, coreid := coreid, mem := Memory.load [] image }

end Sys2Proof.Machine
end

