-- ==== Sys2Proof/Safety.lean ====
section
/-! DEFINITION. The terms in which claims speak of the machine: the invariant of its reachable states, what a step leaves
alone, and what each instruction may write or raise. -/

namespace Sys2Proof.Machine

/-! ## The invariant -/

/-- What holds of every state that a run reaches. -/
structure State.Inv (s : State) : Prop where
  /-- The parameters meet the constraints of spec/00_scope.md R8. -/
  cfgWf : s.cfg.wf = true
  /-- The slot of register 0 is 0 (spec/10_state.md R21). -/
  zeroReg : s.regs[0] = 0
  /-- Memory is in canonical form. -/
  memWf : s.mem.wf
  /-- Every listed byte has a physical address of PADDR_BITS bits (spec/10_state.md R38). -/
  memRange : ∀ c ∈ s.mem, c.1 < 2 ^ s.cfg.paddrBits
  /-- The set of modified addresses is in canonical form. -/
  modifiedWf : addressesWf s.modified
  /-- Every byte that a core stored to is listed in memory (spec/20_memory.md R53, R66). -/
  modifiedListed : ∀ a ∈ s.modified, (s.mem.byte? a).isSome = true
  /-- pc is a multiple of 4 (spec/10_state.md R25, spec/20_memory.md R57). -/
  pcAligned : s.pc.toNat % 4 = 0
  /-- epc is a multiple of 4: it holds the pc of a syscall (spec/20_memory.md R57), or the model's reset value 0 (entry 2). -/
  epcAligned : s.epc.toNat % 4 = 0
  /-- mngr2proc holds no more than FIFO_DEPTH items (spec/00_scope.md R8). -/
  mngr2procFits : s.cfg.fifoDepth.all (s.mngr2proc.length ≤ ·) = true
  /-- proc2mngr holds no more than FIFO_DEPTH items (spec/00_scope.md R8). -/
  proc2mngrFits : s.cfg.fifoDepth.all (s.proc2mngr.length ≤ ·) = true
  /-- There is a core (spec/00_scope.md R8). -/
  hasCore : 1 ≤ s.numcores.toNat
  /-- Below PARCv3 there is one core (spec/00_scope.md R8). -/
  oneCore : s.cfg.version.number < 3 → s.numcores = 1
  /-- COREID(c) = c for c = 0 .. NUMCORES-1 (spec/10_state.md R35, D3). -/
  idInRange : s.coreid.toNat < s.numcores.toNat

/-! ## What a step leaves alone -/

/-- Every general register reads as before. -/
def SameRegs (s t : State) : Prop := ∀ r, t.readReg r = s.readReg r

/-- Register `rd` reads `v`, unless it is register 0, and every other register reads as before (spec/10_state.md R21). -/
def RegWritten (s t : State) (rd : Reg) (v : Word) : Prop :=
  ∀ r, t.readReg r = if r = rd ∧ rd ≠ 0 then v else s.readReg r

/-- Every byte of memory reads as before, and no address counts as newly stored to. -/
def SameMem (s t : State) : Prop := (∀ a, t.mem.byte a = s.mem.byte a) ∧ t.modified = s.modified

/-- Every byte outside the `n` bytes from `p` up reads as before; those `n` addresses, and no others, count as newly stored to. -/
def SameMemOutside (s t : State) (p n : Nat) : Prop :=
  (∀ a, a < p ∨ p + n ≤ a → t.mem.byte a = s.mem.byte a)
    ∧ ∀ a, a ∈ t.modified ↔ a ∈ s.modified ∨ (p ≤ a ∧ a < p + n)

/-- The exception state is as before (spec/10_state.md R26, R27). -/
def SameException (s t : State) : Prop := t.epc = s.epc ∧ t.epcSet = s.epcSet ∧ t.mode = s.mode

/-- Both manager FIFOs are as before (spec/10_state.md R31, R32). -/
def SameFifos (s t : State) : Prop := t.mngr2proc = s.mngr2proc ∧ t.proc2mngr = s.proc2mngr

/-- numcores, coreid, the parameters and what the other agents hold are as before. -/
def SameSurroundings (s t : State) : Prop :=
  t.numcores = s.numcores ∧ t.coreid = s.coreid ∧ t.cfg = s.cfg ∧ t.agenda = s.agenda ∧ t.received = s.received

/-- Everything but the general registers, memory and pc is as before. -/
def SameRest (s t : State) : Prop :=
  SameException s t ∧ SameFifos s t ∧ t.statsEn = s.statsEn ∧ SameSurroundings s t

/-- `t` is `s` with `v` in register `rd` (with nothing written if `rd` is 0) and pc at `target`; nothing else changed. -/
def WritesRegAndGoesTo (s t : State) (rd : Reg) (v target : Word) : Prop :=
  RegWritten s t rd v ∧ t.pc = target ∧ SameMem s t ∧ SameRest s t

/-- `t` is `s` with `v` in register `rd` (with nothing written if `rd` is 0) and pc advanced by 4; nothing else changed. -/
def WritesReg (s t : State) (rd : Reg) (v : Word) : Prop := WritesRegAndGoesTo s t rd v (s.pc + 4)

/-- `t` is `s` with pc at `target`; nothing else changed. -/
def OnlyGoesTo (s t : State) (target : Word) : Prop :=
  SameRegs s t ∧ t.pc = target ∧ SameMem s t ∧ SameRest s t

/-- `t` is `s` with at most the `n` bytes from physical address `p` up stored to and pc advanced by 4; nothing else changed. -/
def OnlyStores (s t : State) (p n : Nat) : Prop :=
  SameRegs s t ∧ t.pc = s.pc + 4 ∧ SameMemOutside s t p n ∧ SameRest s t

/-- What an atomic leaves: the old word in rd, the word `new` at the address, pc advanced, nothing else changed (R209). -/
def AtomicResult (s t : State) (rd rs : Reg) (new : Word) : Prop :=
  RegWritten s t rd (s.mem.word (s.paddr (s.readReg rs))) ∧ t.mem.word (s.paddr (s.readReg rs)) = new
    ∧ t.pc = s.pc + 4 ∧ SameMemOutside s t (s.paddr (s.readReg rs)) 4 ∧ SameRest s t

/-- It is the core's turn: no move is left, the first gives the core a step, or the first cannot take place yet (R247, R250). -/
def CoreMovesNext (s : State) : Prop :=
  s.agenda = [] ∨ (∃ rest, s.agenda = .core :: rest) ∨ ∃ m rest, s.agenda = m :: rest ∧ m ≠ .core ∧ s.enabled m = false

/-- `t` is `s` with the first move of its agenda gone, `rest` left, and at most the `n` bytes from physical address `p` up stored
to; nothing else changed. -/
def RemoteStores (s t : State) (rest : List Move) (p n : Nat) : Prop :=
  SameRegs s t ∧ t.pc = s.pc ∧ SameException s t ∧ SameFifos s t ∧ t.statsEn = s.statsEn ∧ t.numcores = s.numcores
    ∧ t.coreid = s.coreid ∧ t.cfg = s.cfg ∧ t.received = s.received ∧ t.agenda = rest ∧ SameMemOutside s t p n

/-- The outcome of a step with its next state's mode bit set to a fixed value. -/
def forgetMode (r : Result) : Result :=
  match r with
  | .next t => .next { t with mode := .user }
  | .fault f => .fault f
  | .refused f => .refused f

/-- The instruction answers a next state, and that state is as `P` says. -/
def Completes (i : Instr) (s : State) (P : State → Prop) : Prop := ∃ t, exec i s = .next t ∧ P t

/-- The word is the instruction: the decoder reads it, the encoder writes it, and the version is the one that adds it. -/
def IsWordOf (w : Word) (i : Instr) (v : Config.Version) : Prop := decodeWord w = some i ∧ encode i = w ∧ i.since = v

end Sys2Proof.Machine

namespace Sys2Proof

/-! ## What each instruction may write or raise -/

/-- The general register an instruction writes (spec/10_state.md R23). -/
def Instr.destination : Instr → Option Reg
  | .mfc0 rt _ => some rt
  | .mtc0 _ _ => none
  | .addu rd _ _ => some rd
  | .subu rd _ _ => some rd
  | .and rd _ _ => some rd
  | .or rd _ _ => some rd
  | .xor rd _ _ => some rd
  | .nor rd _ _ => some rd
  | .slt rd _ _ => some rd
  | .sltu rd _ _ => some rd
  | .srav rd _ _ => some rd
  | .srlv rd _ _ => some rd
  | .sllv rd _ _ => some rd
  | .mul rd _ _ => some rd
  | .div rd _ _ => some rd
  | .divu rd _ _ => some rd
  | .rem rd _ _ => some rd
  | .remu rd _ _ => some rd
  | .addiu rt _ _ => some rt
  | .lui rt _ => some rt
  | .ori rt _ _ => some rt
  | .andi rt _ _ => some rt
  | .xori rt _ _ => some rt
  | .slti rt _ _ => some rt
  | .sltiu rt _ _ => some rt
  | .sra rd _ _ => some rd
  | .srl rd _ _ => some rd
  | .sll rd _ _ => some rd
  | .lw rt _ _ => some rt
  | .lh rt _ _ => some rt
  | .lhu rt _ _ => some rt
  | .lb rt _ _ => some rt
  | .lbu rt _ _ => some rt
  | .sw _ _ _ => none
  | .sh _ _ _ => none
  | .sb _ _ _ => none
  | .j _ => none
  | .jr _ => none
  | .jalr rd _ => some rd
  | .jal _ => some 31
  | .beq _ _ _ => none
  | .bne _ _ _ => none
  | .bgtz _ _ => none
  | .bltz _ _ => none
  | .bgez _ _ => none
  | .blez _ _ => none
  | .amoAdd rd _ _ => some rd
  | .amoAnd rd _ _ => some rd
  | .amoOr rd _ _ => some rd
  | .sync => none
  | .syscall => none
  | .eret => none

/-- The physical address and the number of the bytes an instruction stores to in state `s` (spec/20_memory.md R54). -/
def Instr.storeRange (s : Machine.State) : Instr → Option (Nat × Nat)
  | .mfc0 _ _ => none
  | .mtc0 _ _ => none
  | .addu _ _ _ => none
  | .subu _ _ _ => none
  | .and _ _ _ => none
  | .or _ _ _ => none
  | .xor _ _ _ => none
  | .nor _ _ _ => none
  | .slt _ _ _ => none
  | .sltu _ _ _ => none
  | .srav _ _ _ => none
  | .srlv _ _ _ => none
  | .sllv _ _ _ => none
  | .mul _ _ _ => none
  | .div _ _ _ => none
  | .divu _ _ _ => none
  | .rem _ _ _ => none
  | .remu _ _ _ => none
  | .addiu _ _ _ => none
  | .lui _ _ => none
  | .ori _ _ _ => none
  | .andi _ _ _ => none
  | .xori _ _ _ => none
  | .slti _ _ _ => none
  | .sltiu _ _ _ => none
  | .sra _ _ _ => none
  | .srl _ _ _ => none
  | .sll _ _ _ => none
  | .lw _ _ _ => none
  | .lh _ _ _ => none
  | .lhu _ _ _ => none
  | .lb _ _ _ => none
  | .lbu _ _ _ => none
  | .sw _ rs imm => some (s.paddr (s.effAddr rs imm), 4)
  | .sh _ rs imm => some (s.paddr (s.effAddr rs imm), 2)
  | .sb _ rs imm => some (s.paddr (s.effAddr rs imm), 1)
  | .j _ => none
  | .jr _ => none
  | .jalr _ _ => none
  | .jal _ => none
  | .beq _ _ _ => none
  | .bne _ _ _ => none
  | .bgtz _ _ => none
  | .bltz _ _ => none
  | .bgez _ _ => none
  | .blez _ _ => none
  | .amoAdd _ rs _ => some (s.paddr (s.readReg rs), 4)
  | .amoAnd _ rs _ => some (s.paddr (s.readReg rs), 4)
  | .amoOr _ rs _ => some (s.paddr (s.readReg rs), 4)
  | .sync => none
  | .syscall => none
  | .eret => none

/-- The model faults an instruction's own rule can raise (spec/93_implementation_defined.md section 2). -/
def Instr.possibleFaults : Instr → List Machine.Fault
  | .mfc0 _ _ => [.undefinedCP0Access]
  | .mtc0 _ _ => [.undefinedCP0Access]
  | .addu _ _ _ => []
  | .subu _ _ _ => []
  | .and _ _ _ => []
  | .or _ _ _ => []
  | .xor _ _ _ => []
  | .nor _ _ _ => []
  | .slt _ _ _ => []
  | .sltu _ _ _ => []
  | .srav _ _ _ => []
  | .srlv _ _ _ => []
  | .sllv _ _ _ => []
  | .mul _ _ _ => []
  | .div _ _ _ => []
  | .divu _ _ _ => []
  | .rem _ _ _ => []
  | .remu _ _ _ => []
  | .addiu _ _ _ => []
  | .lui _ _ => []
  | .ori _ _ _ => []
  | .andi _ _ _ => []
  | .xori _ _ _ => []
  | .slti _ _ _ => []
  | .sltiu _ _ _ => []
  | .sra _ _ _ => []
  | .srl _ _ _ => []
  | .sll _ _ _ => []
  | .lw _ _ _ => [.misalignedData]
  | .lh _ _ _ => [.misalignedData]
  | .lhu _ _ _ => [.misalignedData]
  | .lb _ _ _ => []
  | .lbu _ _ _ => []
  | .sw _ _ _ => [.misalignedData]
  | .sh _ _ _ => [.misalignedData]
  | .sb _ _ _ => []
  | .j _ => []
  | .jr _ => [.misalignedJumpTarget]
  | .jalr _ _ => [.jalrSameRegister, .misalignedJumpTarget]
  | .jal _ => []
  | .beq _ _ _ => []
  | .bne _ _ _ => []
  | .bgtz _ _ => []
  | .bltz _ _ => []
  | .bgez _ _ => []
  | .blez _ _ => []
  | .amoAdd _ _ _ => [.misalignedData]
  | .amoAnd _ _ _ => [.misalignedData]
  | .amoOr _ _ _ => [.misalignedData]
  | .sync => []
  | .syscall => []
  | .eret => [.unsetEPC]

end Sys2Proof
end

