-- ==== Sys2Proof/Certificates/Slice0/Obligations.lean ====
section
/-! DEFINITION. The statements about the machine, for the provers. A statement quantifies over every state, so over every
choice of the implementation parameters and every register value, unless it says otherwise. -/

open Sys2Proof Sys2Proof.Machine

/-! ## Encoding (spec/30_encoding.md) -/

/-- A few words, written out field by field from the spec's encodings, decode to the instructions they stand for. The
pattern of jalr here is MIPS32's, its figure being lost (spec GK1; PRESUMED, entry 13). -/
def Obligations.WrittenWordsDecode : Prop :=
  decodeTableWord 32 0b01000000000000100000100000000000 = some (.mfc0 2 1)
    ∧ decodeTableWord 32 0b00000000001000100001100000100001 = some (.addu 3 1 2)
    ∧ decodeTableWord 32 0b00000000010000010001100000000111 = some (.srav 3 1 2)
    ∧ decodeTableWord 32 0b10011100001000100001100000000101 = some (.div 3 1 2)
    ∧ decodeTableWord 32 0b00100100001000101111111111111111 = some (.addiu 2 1 0xFFFF)
    ∧ decodeTableWord 32 0b10001100001000100000000000001000 = some (.lw 2 1 8)
    ∧ decodeTableWord 32 0b00000000100000001111100000001001 = some (.jalr 31 4)
    ∧ decodeTableWord 32 0b00000100001000011111111111111111 = some (.bgez 1 0xFFFF)
    ∧ decodeTableWord 32 0b10011100001000100001100000000010 = some (.amoAdd 3 1 2)
    ∧ decodeTableWord 32 0b00000000000000000000000000001100 = some .syscall

/-- Decoding the encoding of an instruction of the machine's version, as a word and as the first bytes of any sequence,
gives the instruction back, whatever its operands. Fifteen of the patterns are MIPS32's, their figures being lost (spec
GK1; PRESUMED, entry 13). That PARCv1 adds jalr is the spec's decision D16 (DESIGN CHOICE, entry 15). -/
def Obligations.DecodeOfEncodeIsTheInstruction : Prop :=
  ∀ (v : Config.Version) (i : Instr), i.wellFormed v = true →
    decode v (encode i) = .ok i ∧ ∀ rest : List Byte, decodeBytes v (encodeBytes i ++ rest) = .ok (i, rest)

/-- A word that decodes to an instruction is that instruction's encoding: no bit of the word is dropped. That a fixed
field of zeros admits nothing else is the spec's decision D15 (entry 14). Fifteen of the patterns are MIPS32's (spec GK1;
PRESUMED, entry 13). The gating by version, and that PARCv1 adds jalr, are the spec's decision D16 (DESIGN CHOICE, entry
15). -/
def Obligations.EncodeOfDecodeIsTheWord : Prop :=
  ∀ (v : Config.Version) (w : Word) (i : Instr), decode v w = .ok i → encode i = w ∧ i.wellFormed v = true

/-- The decode tree and the opcode table name the same words: a word of a row decodes to an instruction of the row's
mnemonic and version, and a word of no row decodes to nothing (R85 to R88). The masks follow the spec's decision D15
(entry 14), and fifteen patterns are MIPS32's, their figures being lost (spec GK1; PRESUMED, entry 13). That PARCv1 adds
jalr is the spec's decision D16 (DESIGN CHOICE, entry 15). -/
def Obligations.DecodeTreeAgreesWithOpcodeTable : Prop :=
  ∀ w : Word,
    (∀ row ∈ opcodeRows, row.isRowOf w = true →
      ∃ i, decodeWord w = some i ∧ i.mnemonic = row.mnemonic ∧ i.since = row.since)
    ∧ ((∀ row ∈ opcodeRows, row.isRowOf w = false) → decodeWord w = none)

/-- No word is of two rows of the opcode table. -/
def Obligations.OpcodeRowsDoNotOverlap : Prop :=
  ∀ (w : Word) (a b : OpcodeRow), a ∈ opcodeRows → b ∈ opcodeRows → a.isRowOf w = true → b.isRowOf w = true → a = b

/-- When it is the core's turn, a word at pc that was not stored to and that matches no row of the opcode table, or only a
row of a later version than the machine's, is the fault UndefinedInstruction: it is never executed (R97). The fault is the
spec's own decision (D14, D15, D16; entries 14, 15). -/
def Obligations.UndefinedWordsFault : Prop :=
  ∀ s : State, CoreMovesNext s → s.pc.toNat % 4 = 0 →
    (∀ a ∈ s.modified, a < s.paddr s.pc ∨ s.paddr s.pc + 4 ≤ a) →
    (∀ row ∈ opcodeRows, row.isRowOf (s.mem.word (s.paddr s.pc)) = true → s.cfg.version.number < row.since.number) →
    step s = .fault .undefinedInstruction

/-- The all-zero word is `sll r0, r0, 0`, which changes nothing but pc, which it advances by 4 (R99). That the write to
register 0 is discarded is the spec's decision D4 (entry 30). -/
def Obligations.AllZeroWordIsNoOperation : Prop :=
  IsWordOf 0x00000000 (.sll 0 0 0) .v1 ∧ ∀ s : State, exec (.sll 0 0 0) s = .next { s with pc := s.pc + 4 }

/-! ## Reset and the invariant -/

/-- Right after reset pc is 0x00001000, register 0 reads 0, the mode is supervisor, no syscall has written epc, both FIFOs
are empty, no byte of memory is listed and none counts as stored to. The mode is the spec's own decision D21. That epc is
unwritten is its R40 (D35, entry 2). The empty FIFOs are its decision D19 (entry 28), and that memory lists nothing is the
model's form of R263 (entry 7). -/
def Obligations.ResetValues : Prop :=
  State.reset.pc = 0x00001000 ∧ State.reset.readReg 0 = 0 ∧ State.reset.mode = .supervisor
    ∧ State.reset.epcSet = false ∧ State.reset.mngr2proc = [] ∧ State.reset.proc2mngr = [] ∧ State.reset.mem = [] ∧ State.reset.modified = []

/-- The state after reset meets the invariant. That epc holds 0 is the model's reset value (DESIGN CHOICE, entry 2). -/
def Obligations.ResetMeetsInv : Prop := State.reset.Inv

/-- Every step keeps the invariant: memory and the set of modified addresses stay canonical and inside physical memory,
register 0 stays 0, pc and epc stay multiples of 4, the FIFOs stay within FIFO_DEPTH, and the parameters legal. The bound
of the FIFOs is decision D19 (entry 28); epc before any syscall is the model's (entry 2). -/
def Obligations.EveryStepKeepsInv : Prop := ∀ s t : State, s.Inv → step s = .next t → t.Inv

/-! ## A step (spec/60_exceptions.md R250, spec/20_memory.md R60, R66) -/

/-- Where the word at an aligned pc, none of whose bytes was stored to, decodes to an instruction, a step of the core is
exec of that instruction: with no move on the agenda in the same state, with a core move first on it in the state less
that move, and with a move first on it that is not enabled in the same state. The agenda is the model's (entry 10). -/
def Obligations.StepRunsTheDecodedInstruction : Prop :=
  ∀ (s : State) (i : Instr), s.pc.toNat % 4 = 0 → (∀ a ∈ s.modified, a < s.paddr s.pc ∨ s.paddr s.pc + 4 ≤ a) →
    decode s.cfg.version (s.mem.word (s.paddr s.pc)) = .ok i →
    (s.agenda = [] → step s = exec i s)
    ∧ (∀ rest, s.agenda = .core :: rest → step s = exec i { s with agenda := rest })
    ∧ (∀ m rest, s.agenda = m :: rest → m ≠ .core → s.enabled m = false → step s = exec i s)

/-- A word placed for the next fetch is the next instruction to run: for an instruction of the machine's version, the step
of the state that holds its encoding is exec of it in that state. The placing changes no general register, pc only where
its low bits are not 0, and no byte but the four of the word. How a program comes to be in memory is the model's choice
(entry 26). It follows from the fetch at pc (R250), the little-endian instruction word (R60) and its decoding. The placing
is no loader and no rule of the spec (entry 26). -/
def Obligations.PlacedWordIsRunNext : Prop :=
  ∀ (s : State) (i : Instr), i.wellFormed s.cfg.version = true →
    step (s.withFetchWord 32 (encode i).toNat) = exec i (s.withFetchWord 32 (encode i).toNat)
    ∧ SameRegs s (s.withFetchWord 32 (encode i).toNat)
    ∧ (s.pc.toNat % 4 = 0 → (s.withFetchWord 32 (encode i).toNat).pc = s.pc)
    ∧ ∀ a, a < s.paddr (s.withFetchWord 32 (encode i).toNat).pc ∨ s.paddr (s.withFetchWord 32 (encode i).toNat).pc + 4 ≤ a →
        (s.withFetchWord 32 (encode i).toNat).mem.byte a = s.mem.byte a

/-- When it is the core's turn, fetching a word any byte of which was stored to since reset is the fault
FetchOfModifiedCode, checked before decoding; and the bytes that a completed store or atomic writes are exactly the ones
that come to count as stored to (R66, R269). The fault is the spec's own decision (D27; entry 19). -/
def Obligations.FetchOfModifiedCodeFaults : Prop :=
  (∀ s : State, CoreMovesNext s → (∃ a ∈ s.modified, s.paddr s.pc ≤ a ∧ a < s.paddr s.pc + 4) →
    step s = .fault .fetchOfModifiedCode)
  ∧ ∀ (i : Instr) (s t : State), exec i s = .next t → ∀ a,
      a ∈ t.modified ↔ a ∈ s.modified ∨ ∃ p n, i.storeRange s = some (p, n) ∧ p ≤ a ∧ a < p + n

/-! ## Registers (spec/10_state.md R21, R23) -/

/-- A read of register 0 gives 0 in every state; a write to register 0 changes no register; a write to another register is
read back, and no other register changes. That a write to register 0 is discarded is the spec's decision D4 (entry 30). -/
def Obligations.RegisterZeroIsZero : Prop :=
  ∀ (s : State) (r q : Reg) (v : Word), s.readReg 0 = 0 ∧ (s.setReg 0 v).readReg q = s.readReg q
    ∧ (r ≠ 0 → (s.setReg r v).readReg r = v) ∧ (q ≠ r → (s.setReg r v).readReg q = s.readReg q)

/-- No instruction changes a general register other than its destination: rd of the R-Type arithmetic, multiply/divide,
atomic and jalr instructions, rt of the I-Type arithmetic, loads and mfc0, register 31 of jal; the others write none
(R23). -/
def Obligations.OnlyTheDestinationRegisterChanges : Prop :=
  ∀ (i : Instr) (s t : State), exec i s = .next t → ∀ r, i.destination ≠ some r → t.readReg r = s.readReg r

/-! ## Memory (spec/20_memory.md) -/

/-- A store of a word at an aligned address puts bits 8i+7:8i at the i-th byte from that address, the halfwords read there
are its low and high halves, and the word read back is the word; four byte stores are read back as the word with the first
byte in its low bits (R50, R51). -/
def Obligations.MixedWidthAccessesAreLittleEndian : Prop :=
  ∀ (s : State) (a w : Word) (b0 b1 b2 b3 : Byte), s.cfg.wf = true → a.toNat % 4 = 0 →
    (∃ t, s.storeWord a w = .ok t
      ∧ t.loadByte a = w.extractLsb' 0 8 ∧ t.loadByte (a + 1) = w.extractLsb' 8 8
      ∧ t.loadByte (a + 2) = w.extractLsb' 16 8 ∧ t.loadByte (a + 3) = w.extractLsb' 24 8
      ∧ t.loadHalf a = .ok (w.extractLsb' 0 16) ∧ t.loadHalf (a + 2) = .ok (w.extractLsb' 16 16)
      ∧ t.loadWord a = .ok w)
    ∧ ((((s.storeByte a b0).storeByte (a + 1) b1).storeByte (a + 2) b2).storeByte (a + 3) b3).loadWord a
        = .ok (b3 ++ b2 ++ b1 ++ b0)

/-- MemWrite of 1, 2 or 4 bytes at an aligned address stores byte i of the value at the i-th address from the truncated
address up, and changes no other byte; of 2 or 4 bytes at a misaligned address it is the fault MisalignedData (R53). The
fault is the spec's own decision (D12 of R56; entry 16), and that the bytes count as stored to is D27's (R66; entry 19).
-/
def Obligations.MemWriteStoresItsBytesAndNoOther : Prop :=
  ∀ (s : State) (a w : Word) (h : Half) (b : Byte),
    ((s.storeByte a b).mem.byte (s.paddr a) = b ∧ SameMemOutside s (s.storeByte a b) (s.paddr a) 1)
    ∧ (a.toNat % 2 = 0 → ∃ t, s.storeHalf a h = .ok t ∧ SameMemOutside s t (s.paddr a) 2
        ∧ ∀ i, i < 2 → t.mem.byte (s.paddr a + i) = h.extractLsb' (8 * i) 8)
    ∧ (a.toNat % 4 = 0 → ∃ t, s.storeWord a w = .ok t ∧ SameMemOutside s t (s.paddr a) 4
        ∧ ∀ i, i < 4 → t.mem.byte (s.paddr a + i) = w.extractLsb' (8 * i) 8)
    ∧ (a.toNat % 2 ≠ 0 → s.storeHalf a h = .error .misalignedData)
    ∧ (a.toNat % 4 ≠ 0 → s.storeWord a w = .error .misalignedData)

/-- Two addresses that agree in their low PADDR_BITS bits name the same memory: loads and stores through them answer
alike, whatever their high bits (R55). What the truncation applies to is the spec's decision D36, the length a parameter,
D2 (entry 34). -/
def Obligations.HighAddressBitsAreTruncated : Prop :=
  ∀ (s : State) (a b w : Word) (h : Half) (c : Byte), s.cfg.wf = true →
    a.toNat % 2 ^ s.cfg.paddrBits = b.toNat % 2 ^ s.cfg.paddrBits →
    s.loadWord a = s.loadWord b ∧ s.loadHalf a = s.loadHalf b ∧ s.loadByte a = s.loadByte b
      ∧ s.storeWord a w = s.storeWord b w ∧ s.storeHalf a h = s.storeHalf b h ∧ s.storeByte a c = s.storeByte b c

/-- No instruction changes a byte of memory other than the bytes it stores to: four for sw and the atomics, two for sh,
one for sb, none for any other instruction (R53, R54). The truncation of the address is decision D36, its length a
parameter, D2 (entry 34). -/
def Obligations.OnlyTheStoredBytesChange : Prop :=
  ∀ (i : Instr) (s t : State), exec i s = .next t →
    ∀ a, (∀ p n, i.storeRange s = some (p, n) → a < p ∨ p + n ≤ a) → t.mem.byte a = s.mem.byte a

/-- The address of a load or store is the base register plus the sign-extended offset, modulo 2^32 (R170). The wrap is the
spec's decision D11 (entry 20). -/
def Obligations.EffectiveAddressIsBasePlusOffset : Prop :=
  ∀ (s : State) (rs : Reg) (imm : Imm16),
    (((s.effAddr rs imm).toNat : Int) = (((s.readReg rs).toNat : Int) + imm.toInt) % 2 ^ 32)
    ∧ s.effAddr 0 imm = imm.signExtend 32

/-- lw, lh, lhu, sw, sh and the atomics fault MisalignedData at an address that is no multiple of the access's size (R56,
R209). The fault is the spec's own decision (D12, D33; entry 16). -/
def Obligations.MisalignedAccessesFault : Prop :=
  ∀ (s : State) (rd rt rs : Reg) (imm : Imm16),
    ((s.effAddr rs imm).toNat % 4 ≠ 0 →
      exec (.lw rt rs imm) s = .fault .misalignedData ∧ exec (.sw rt rs imm) s = .fault .misalignedData)
    ∧ ((s.effAddr rs imm).toNat % 2 ≠ 0 →
      exec (.lh rt rs imm) s = .fault .misalignedData ∧ exec (.lhu rt rs imm) s = .fault .misalignedData
        ∧ exec (.sh rt rs imm) s = .fault .misalignedData)
    ∧ ((s.readReg rs).toNat % 4 ≠ 0 →
      exec (.amoAdd rd rs rt) s = .fault .misalignedData ∧ exec (.amoAnd rd rs rt) s = .fault .misalignedData
        ∧ exec (.amoOr rd rs rt) s = .fault .misalignedData)

/-! ## Register-register arithmetic (spec/41_reg_reg_arith.md) -/

/-- addu and subu: the sum and the difference of the unsigned readings modulo 2^32, with no trap (R120, R121). The wrap is
the spec's decision D5 (entry 20), the discarded write to register 0 D4 (entry 30). -/
def Obligations.AddAndSubtractResults : Prop :=
  ∀ (s : State) (rd rs rt : Reg),
    (IsWordOf (0b000000#6 ++ rs ++ rt ++ rd ++ 0b00000#5 ++ 0b100001#6) (.addu rd rs rt) .v1
      ∧ Completes (.addu rd rs rt) s fun t => ∃ v, WritesReg s t rd v
          ∧ v.toNat = ((s.readReg rs).toNat + (s.readReg rt).toNat) % 2 ^ 32)
    ∧ (IsWordOf (0b000000#6 ++ rs ++ rt ++ rd ++ 0b00000#5 ++ 0b100011#6) (.subu rd rs rt) .v1
      ∧ Completes (.subu rd rs rt) s fun t => ∃ v, WritesReg s t rd v
          ∧ (v.toNat : Int) = ((s.readReg rs).toNat - (s.readReg rt).toNat : Int) % 2 ^ 32)

/-- and, or, xor, nor: bit k of the result is the operation on bits k of the sources (R122 to R125). The discarded write
to register 0 is decision D4 (entry 30); no rule is cited for it. -/
def Obligations.BitwiseResults : Prop :=
  ∀ (s : State) (rd rs rt : Reg),
    (IsWordOf (0b000000#6 ++ rs ++ rt ++ rd ++ 0b00000#5 ++ 0b100100#6) (.and rd rs rt) .v1
      ∧ Completes (.and rd rs rt) s fun t => ∃ v, WritesReg s t rd v
          ∧ ∀ k, k < 32 → v.getLsbD k = ((s.readReg rs).getLsbD k && (s.readReg rt).getLsbD k))
    ∧ (IsWordOf (0b000000#6 ++ rs ++ rt ++ rd ++ 0b00000#5 ++ 0b100101#6) (.or rd rs rt) .v1
      ∧ Completes (.or rd rs rt) s fun t => ∃ v, WritesReg s t rd v
          ∧ ∀ k, k < 32 → v.getLsbD k = ((s.readReg rs).getLsbD k || (s.readReg rt).getLsbD k))
    ∧ (IsWordOf (0b000000#6 ++ rs ++ rt ++ rd ++ 0b00000#5 ++ 0b100110#6) (.xor rd rs rt) .v2
      ∧ Completes (.xor rd rs rt) s fun t => ∃ v, WritesReg s t rd v
          ∧ ∀ k, k < 32 → v.getLsbD k = ((s.readReg rs).getLsbD k ^^ (s.readReg rt).getLsbD k))
    ∧ (IsWordOf (0b000000#6 ++ rs ++ rt ++ rd ++ 0b00000#5 ++ 0b100111#6) (.nor rd rs rt) .v2
      ∧ Completes (.nor rd rs rt) s fun t => ∃ v, WritesReg s t rd v
          ∧ ∀ k, k < 32 → v.getLsbD k = !((s.readReg rs).getLsbD k || (s.readReg rt).getLsbD k))

/-- slt and slti compare signed readings, sltu and sltiu unsigned ones, the immediate sign-extended first; the result is 1
or 0 (R126, R127, R155, R156). That true is 1 is the spec's decision D6 (PRESUMED, entry 21); the words of slti and sltiu
are MIPS32's, their figures being lost (spec GK1; PRESUMED, entry 13). The discarded write to register 0 is decision D4
(entry 30). -/
def Obligations.ComparisonResults : Prop :=
  ∀ (s : State) (rd rs rt : Reg) (imm : Imm16),
    (IsWordOf (0b000000#6 ++ rs ++ rt ++ rd ++ 0b00000#5 ++ 0b101010#6) (.slt rd rs rt) .v1
      ∧ Completes (.slt rd rs rt) s fun t =>
          WritesReg s t rd (if (s.readReg rs).toInt < (s.readReg rt).toInt then 1 else 0))
    ∧ (IsWordOf (0b000000#6 ++ rs ++ rt ++ rd ++ 0b00000#5 ++ 0b101011#6) (.sltu rd rs rt) .v2
      ∧ Completes (.sltu rd rs rt) s fun t =>
          WritesReg s t rd (if (s.readReg rs).toNat < (s.readReg rt).toNat then 1 else 0))
    ∧ (IsWordOf (0b001010#6 ++ rs ++ rt ++ imm) (.slti rt rs imm) .v2
      ∧ Completes (.slti rt rs imm) s fun t =>
          WritesReg s t rt (if (s.readReg rs).toInt < imm.toInt then 1 else 0))
    ∧ (IsWordOf (0b001011#6 ++ rs ++ rt ++ imm) (.sltiu rt rs imm) .v2
      ∧ Completes (.sltiu rt rs imm) s fun t =>
          WritesReg s t rt (if ((s.readReg rs).toNat : Int) < imm.toInt % 2 ^ 32 then 1 else 0))

/-- srav, srlv, sllv, with `rs` the amount and `rt` the value: an amount n below 32 divides the signed or the unsigned
reading by 2^n, rounding down, or multiplies it modulo 2^32; an amount of 32 or more is taken modulo 32 under low5, and
under full leaves copies of the sign bit or zeros (R128 to R130). The clauses for amounts of 32 or more rest on the spec's
decision D7 (DESIGN CHOICE, entry 29): each of its two readings has a clause, and the parameter says which holds. The
discarded write to register 0 is decision D4 (entry 30). -/
def Obligations.VariableShiftResults : Prop :=
  ∀ (s : State) (rd rt rs : Reg) (n : Nat),
    ((s.readReg rs).toNat < 32 → n = (s.readReg rs).toNat) →
    (32 ≤ (s.readReg rs).toNat → s.cfg.shiftAmount = .low5 → n = (s.readReg rs).toNat % 32) →
    (32 ≤ (s.readReg rs).toNat → s.cfg.shiftAmount = .full → n = 32) →
    (IsWordOf (0b000000#6 ++ rs ++ rt ++ rd ++ 0b00000#5 ++ 0b000111#6) (.srav rd rt rs) .v2
      ∧ Completes (.srav rd rt rs) s fun t => ∃ v, WritesReg s t rd v ∧ v.toInt = (s.readReg rt).toInt / 2 ^ n)
    ∧ (IsWordOf (0b000000#6 ++ rs ++ rt ++ rd ++ 0b00000#5 ++ 0b000110#6) (.srlv rd rt rs) .v2
      ∧ Completes (.srlv rd rt rs) s fun t => ∃ v, WritesReg s t rd v ∧ v.toNat = (s.readReg rt).toNat / 2 ^ n)
    ∧ (IsWordOf (0b000000#6 ++ rs ++ rt ++ rd ++ 0b00000#5 ++ 0b000100#6) (.sllv rd rt rs) .v2
      ∧ Completes (.sllv rd rt rs) s fun t => ∃ v, WritesReg s t rd v ∧ v.toNat = (s.readReg rt).toNat * 2 ^ n % 2 ^ 32)

/-! ## Multiply and divide (spec/42_muldiv.md) -/

/-- mul: the low 32 bits of the product of the signed readings, which are those of the unsigned readings (R140). The
discarded write to register 0 is decision D4 (entry 30). -/
def Obligations.MultiplyResult : Prop :=
  ∀ (s : State) (rd rs rt : Reg),
    IsWordOf (0b011100#6 ++ rs ++ rt ++ rd ++ 0b00000#5 ++ 0b000010#6) (.mul rd rs rt) .v1
    ∧ Completes (.mul rd rs rt) s fun t => ∃ v, WritesReg s t rd v
        ∧ (v.toNat : Int) = (s.readReg rs).toInt * (s.readReg rt).toInt % 2 ^ 32
        ∧ v.toNat = (s.readReg rs).toNat * (s.readReg rt).toNat % 2 ^ 32

/-- div and divu complete for all operands; off the corner operands div gives the signed quotient rounded toward zero and
divu the unsigned quotient; at a corner they give DIV_CORNER of the operands, of which nothing is known (R141, R142). The
rounding is the spec's decision D8 (PRESUMED, entry 22), the free value at the corners D9 (entry 8). The discarded write
to register 0 is decision D4 (entry 30). -/
def Obligations.DivisionResults : Prop :=
  ∀ (s : State) (rd rs rt : Reg),
    (IsWordOf (0b100111#6 ++ rs ++ rt ++ rd ++ 0b00000#5 ++ 0b000101#6) (.div rd rs rt) .v2
      ∧ Completes (.div rd rs rt) s fun t => ∃ v, WritesReg s t rd v
          ∧ if (s.readReg rt).toInt = 0 ∨ ((s.readReg rs).toInt = -2 ^ 31 ∧ (s.readReg rt).toInt = -1)
            then v = Config.divCorner .div (s.readReg rs) (s.readReg rt)
            else v.toInt = (s.readReg rs).toInt.tdiv (s.readReg rt).toInt)
    ∧ (IsWordOf (0b100111#6 ++ rs ++ rt ++ rd ++ 0b00000#5 ++ 0b000111#6) (.divu rd rs rt) .v2
      ∧ Completes (.divu rd rs rt) s fun t => ∃ v, WritesReg s t rd v
          ∧ if (s.readReg rt).toNat = 0 then v = Config.divCorner .divu (s.readReg rs) (s.readReg rt)
            else v.toNat = (s.readReg rs).toNat / (s.readReg rt).toNat)

/-- rem and remu complete for all operands; off the corner operands rem gives a - b * trunc(a / b) of the signed readings
and remu the unsigned remainder; at a corner they give DIV_CORNER of the operands (R143, R144). The sign of the remainder
is the spec's decision D8 (PRESUMED, entry 22), the free value at the corners D9 (entry 8). The discarded write to
register 0 is decision D4 (entry 30). -/
def Obligations.RemainderResults : Prop :=
  ∀ (s : State) (rd rs rt : Reg),
    (IsWordOf (0b100111#6 ++ rs ++ rt ++ rd ++ 0b00000#5 ++ 0b000110#6) (.rem rd rs rt) .v2
      ∧ Completes (.rem rd rs rt) s fun t => ∃ v, WritesReg s t rd v
          ∧ if (s.readReg rt).toInt = 0 ∨ ((s.readReg rs).toInt = -2 ^ 31 ∧ (s.readReg rt).toInt = -1)
            then v = Config.divCorner .rem (s.readReg rs) (s.readReg rt)
            else v.toInt = (s.readReg rs).toInt
              - (s.readReg rt).toInt * (s.readReg rs).toInt.tdiv (s.readReg rt).toInt)
    ∧ (IsWordOf (0b100111#6 ++ rs ++ rt ++ rd ++ 0b00000#5 ++ 0b001000#6) (.remu rd rs rt) .v2
      ∧ Completes (.remu rd rs rt) s fun t => ∃ v, WritesReg s t rd v
          ∧ if (s.readReg rt).toNat = 0 then v = Config.divCorner .remu (s.readReg rs) (s.readReg rt)
            else v.toNat = (s.readReg rs).toNat % (s.readReg rt).toNat)

/-- Off the corner operands the quotient q of div (divu) and the remainder r of rem (remu) of the same operands a and b
satisfy a = b * q + r with |r| < |b| and r zero or of the sign of a (0 <= r < b) (R145). The rounding is the spec's
decision D8 (PRESUMED, entry 22). -/
def Obligations.QuotientAndRemainderRebuildTheDividend : Prop :=
  ∀ (s t u : State) (rd rs rt : Reg), rd ≠ 0 →
    (exec (.div rd rs rt) s = .next t → exec (.rem rd rs rt) s = .next u → (s.readReg rt).toInt ≠ 0 →
      ¬((s.readReg rs).toInt = -2 ^ 31 ∧ (s.readReg rt).toInt = -1) →
      (s.readReg rs).toInt = (s.readReg rt).toInt * (t.readReg rd).toInt + (u.readReg rd).toInt
        ∧ (u.readReg rd).toInt.natAbs < (s.readReg rt).toInt.natAbs
        ∧ (0 ≤ (s.readReg rs).toInt → 0 ≤ (u.readReg rd).toInt)
        ∧ ((s.readReg rs).toInt ≤ 0 → (u.readReg rd).toInt ≤ 0))
    ∧ (exec (.divu rd rs rt) s = .next t → exec (.remu rd rs rt) s = .next u → (s.readReg rt).toNat ≠ 0 →
      (s.readReg rs).toNat = (s.readReg rt).toNat * (t.readReg rd).toNat + (u.readReg rd).toNat
        ∧ (u.readReg rd).toNat < (s.readReg rt).toNat)

/-! ## Register-immediate arithmetic (spec/43_reg_imm_arith.md) -/

/-- addiu adds the sign-extended immediate modulo 2^32; lui puts the immediate in the upper half (R150, R151). The wrap of
addiu is the spec's decision D5 (entry 20), the discarded write to register 0 D4 (entry 30). -/
def Obligations.AddImmediateAndLuiResults : Prop :=
  ∀ (s : State) (rt rs : Reg) (imm : Imm16),
    (IsWordOf (0b001001#6 ++ rs ++ rt ++ imm) (.addiu rt rs imm) .v1
      ∧ Completes (.addiu rt rs imm) s fun t => ∃ v, WritesReg s t rt v
          ∧ (v.toNat : Int) = ((s.readReg rs).toNat + imm.toInt : Int) % 2 ^ 32)
    ∧ (IsWordOf (0b001111#6 ++ 0b00000#5 ++ rt ++ imm) (.lui rt imm) .v1
      ∧ Completes (.lui rt imm) s fun t => ∃ v, WritesReg s t rt v ∧ v.toNat = imm.toNat * 2 ^ 16)

/-- ori, andi, xori work on the low half with the immediate; ori and xori pass bits 31:16 through, andi clears them (R152
to R154). The discarded write to register 0 is decision D4 (entry 30). -/
def Obligations.LogicalImmediateResults : Prop :=
  ∀ (s : State) (rt rs : Reg) (imm : Imm16),
    (IsWordOf (0b001101#6 ++ rs ++ rt ++ imm) (.ori rt rs imm) .v1
      ∧ Completes (.ori rt rs imm) s fun t => ∃ v, WritesReg s t rt v ∧ ∀ k, k < 32 →
          v.getLsbD k = if k < 16 then ((s.readReg rs).getLsbD k || imm.getLsbD k) else (s.readReg rs).getLsbD k)
    ∧ (IsWordOf (0b001100#6 ++ rs ++ rt ++ imm) (.andi rt rs imm) .v2
      ∧ Completes (.andi rt rs imm) s fun t => ∃ v, WritesReg s t rt v ∧ ∀ k, k < 32 →
          v.getLsbD k = if k < 16 then ((s.readReg rs).getLsbD k && imm.getLsbD k) else false)
    ∧ (IsWordOf (0b001110#6 ++ rs ++ rt ++ imm) (.xori rt rs imm) .v2
      ∧ Completes (.xori rt rs imm) s fun t => ∃ v, WritesReg s t rt v ∧ ∀ k, k < 32 →
          v.getLsbD k = if k < 16 then ((s.readReg rs).getLsbD k ^^ imm.getLsbD k) else (s.readReg rs).getLsbD k)

/-- sra, srl, sll by a constant 0 to 31: the signed or unsigned reading divided by 2^sa, rounded down, or the product with
2^sa modulo 2^32 (R157 to R159). The words of sra and srl are MIPS32's, their figures being lost (spec GK1; PRESUMED,
entry 13). The discarded write to register 0 is decision D4 (entry 30). -/
def Obligations.ConstantShiftResults : Prop :=
  ∀ (s : State) (rd rt : Reg) (sa : Shamt),
    (IsWordOf (0b000000#6 ++ 0b00000#5 ++ rt ++ rd ++ sa ++ 0b000011#6) (.sra rd rt sa) .v1
      ∧ Completes (.sra rd rt sa) s fun t => ∃ v, WritesReg s t rd v ∧ v.toInt = (s.readReg rt).toInt / 2 ^ sa.toNat)
    ∧ (IsWordOf (0b000000#6 ++ 0b00000#5 ++ rt ++ rd ++ sa ++ 0b000010#6) (.srl rd rt sa) .v2
      ∧ Completes (.srl rd rt sa) s fun t => ∃ v, WritesReg s t rd v ∧ v.toNat = (s.readReg rt).toNat / 2 ^ sa.toNat)
    ∧ (IsWordOf (0b000000#6 ++ 0b00000#5 ++ rt ++ rd ++ sa ++ 0b000000#6) (.sll rd rt sa) .v1
      ∧ Completes (.sll rd rt sa) s fun t => ∃ v, WritesReg s t rd v
          ∧ v.toNat = (s.readReg rt).toNat * 2 ^ sa.toNat % 2 ^ 32)

/-! ## Loads and stores (spec/44_memory_instructions.md) -/

/-- lw at an aligned address, and at a misaligned one; the word is read little-endian from the truncated address (R171).
The fault is the spec's decision D12 (entry 16); that a load to register 0 still happens is D34 (entry 30). The discarded
write to register 0 is decision D4 (entry 30). The truncation of the address is decision D36, its length a parameter, D2
(entry 34). -/
def Obligations.LoadWordResult : Prop :=
  ∀ (s : State) (rt rs : Reg) (imm : Imm16),
    IsWordOf (0b100011#6 ++ rs ++ rt ++ imm) (.lw rt rs imm) .v1
    ∧ ((s.effAddr rs imm).toNat % 4 = 0 → Completes (.lw rt rs imm) s fun t => ∃ v, WritesReg s t rt v
        ∧ ∀ k, k < 4 → v.extractLsb' (8 * k) 8 = s.mem.byte (s.paddr (s.effAddr rs imm) + k))
    ∧ ((s.effAddr rs imm).toNat % 4 ≠ 0 → exec (.lw rt rs imm) s = .fault .misalignedData)

/-- lh and lhu: the little-endian halfword at an aligned address as a signed and as an unsigned value; at a misaligned one
the fault MisalignedData (R172, R173). The fault is the spec's decision D12 (entry 16), the discarded write to register 0
D4 and that the load still happens D34 (entry 30). The truncation of the address is decision D36, its length a parameter,
D2 (entry 34). -/
def Obligations.LoadHalfwordResults : Prop :=
  ∀ (s : State) (rt rs : Reg) (imm : Imm16),
    (IsWordOf (0b100001#6 ++ rs ++ rt ++ imm) (.lh rt rs imm) .v2
      ∧ ((s.effAddr rs imm).toNat % 2 = 0 → Completes (.lh rt rs imm) s fun t => ∃ v, WritesReg s t rt v
          ∧ v.toInt = (s.mem.byte (s.paddr (s.effAddr rs imm) + 1)).toInt * 256
              + (s.mem.byte (s.paddr (s.effAddr rs imm))).toNat)
      ∧ ((s.effAddr rs imm).toNat % 2 ≠ 0 → exec (.lh rt rs imm) s = .fault .misalignedData))
    ∧ (IsWordOf (0b100101#6 ++ rs ++ rt ++ imm) (.lhu rt rs imm) .v2
      ∧ ((s.effAddr rs imm).toNat % 2 = 0 → Completes (.lhu rt rs imm) s fun t => ∃ v, WritesReg s t rt v
          ∧ v.toNat = (s.mem.byte (s.paddr (s.effAddr rs imm) + 1)).toNat * 256
              + (s.mem.byte (s.paddr (s.effAddr rs imm))).toNat)
      ∧ ((s.effAddr rs imm).toNat % 2 ≠ 0 → exec (.lhu rt rs imm) s = .fault .misalignedData))

/-- lb and lbu: the byte at any address as a signed and as an unsigned value (R174, R175). The word of lbu is MIPS32's,
its figure being lost (spec GK1; PRESUMED, entry 13). That a load to register 0 still happens is decision D34, the
discarded write to register 0 D4 (entry 30). The truncation of the address is decision D36, its length a parameter, D2
(entry 34). -/
def Obligations.LoadByteResults : Prop :=
  ∀ (s : State) (rt rs : Reg) (imm : Imm16),
    (IsWordOf (0b100000#6 ++ rs ++ rt ++ imm) (.lb rt rs imm) .v2
      ∧ Completes (.lb rt rs imm) s fun t => ∃ v, WritesReg s t rt v
          ∧ v.toInt = (s.mem.byte (s.paddr (s.effAddr rs imm))).toInt)
    ∧ (IsWordOf (0b100100#6 ++ rs ++ rt ++ imm) (.lbu rt rs imm) .v2
      ∧ Completes (.lbu rt rs imm) s fun t => ∃ v, WritesReg s t rt v
          ∧ v.toNat = (s.mem.byte (s.paddr (s.effAddr rs imm))).toNat)

/-- sw, sh and sb at an address aligned for their size store the low 32, 16 or 8 bits of the register, little-endian, from
the truncated address up, and change no other byte and no register; sw and sh fault at a misaligned address (R176 to
R178). The words are MIPS32's, their figures being lost (spec GK1; PRESUMED, entry 13); the low bits stored by sh and sb
are decision D10 (entry 23), the fault D12 (entry 16). The truncation of the address is decision D36, its length a
parameter, D2 (entry 34). -/
def Obligations.StoreResults : Prop :=
  ∀ (s : State) (rt rs : Reg) (imm : Imm16),
    (IsWordOf (0b101011#6 ++ rs ++ rt ++ imm) (.sw rt rs imm) .v1
      ∧ ((s.effAddr rs imm).toNat % 4 = 0 → Completes (.sw rt rs imm) s fun t =>
          OnlyStores s t (s.paddr (s.effAddr rs imm)) 4
          ∧ ∀ k, k < 4 → t.mem.byte (s.paddr (s.effAddr rs imm) + k) = (s.readReg rt).extractLsb' (8 * k) 8)
      ∧ ((s.effAddr rs imm).toNat % 4 ≠ 0 → exec (.sw rt rs imm) s = .fault .misalignedData))
    ∧ (IsWordOf (0b101001#6 ++ rs ++ rt ++ imm) (.sh rt rs imm) .v2
      ∧ ((s.effAddr rs imm).toNat % 2 = 0 → Completes (.sh rt rs imm) s fun t =>
          OnlyStores s t (s.paddr (s.effAddr rs imm)) 2
          ∧ ∀ k, k < 2 → t.mem.byte (s.paddr (s.effAddr rs imm) + k) = (s.readReg rt).extractLsb' (8 * k) 8)
      ∧ ((s.effAddr rs imm).toNat % 2 ≠ 0 → exec (.sh rt rs imm) s = .fault .misalignedData))
    ∧ (IsWordOf (0b101000#6 ++ rs ++ rt ++ imm) (.sb rt rs imm) .v2
      ∧ Completes (.sb rt rs imm) s fun t =>
          OnlyStores s t (s.paddr (s.effAddr rs imm)) 1
          ∧ t.mem.byte (s.paddr (s.effAddr rs imm)) = (s.readReg rt).extractLsb' 0 8)

/-! ## Jumps and branches (spec/45_jumps.md, spec/46_branches.md) -/

/-- j and jal go to the field times 4 within the 256 MiB region of pc + 4; jal writes pc + 4 to register 31, j writes
nothing (R190, R193). The words are MIPS32's, their figures being lost (spec GK1; PRESUMED, entry 13). The wrap of pc + 4
is decision D11 (entry 20). -/
def Obligations.JumpResults : Prop :=
  ∀ (s : State) (target : Target) (d : Word),
    d.toNat = (s.pc + 4).toNat / 2 ^ 28 * 2 ^ 28 + target.toNat * 4 →
    (IsWordOf (0b000010#6 ++ target) (.j target) .v1 ∧ Completes (.j target) s fun t => OnlyGoesTo s t d)
    ∧ (IsWordOf (0b000011#6 ++ target) (.jal target) .v1
      ∧ Completes (.jal target) s fun t => WritesRegAndGoesTo s t 31 (s.pc + 4) d)

/-- jr goes to the register's value if it is a multiple of 4, else it faults MisalignedJumpTarget. jalr with different
registers also writes pc + 4 to rd, and goes to the value the target register held; with equal registers it faults
JalrSameRegister (R191, R192). The faults are the spec's decisions D13 and D24 (entry 17); the words are MIPS32's, their
figures being lost (spec GK1; PRESUMED, entry 13). That PARCv1 adds jalr is the spec's decision D16 (DESIGN CHOICE, entry
15). The wrap of pc + 4 is decision D11 (entry 20), the discarded link to register 0 D4 (entry 30). -/
def Obligations.RegisterJumpResults : Prop :=
  ∀ (s : State) (rd rs : Reg),
    (IsWordOf (0b000000#6 ++ rs ++ 0b00000#5 ++ 0b00000#5 ++ 0b00000#5 ++ 0b001000#6) (.jr rs) .v1
      ∧ ((s.readReg rs).toNat % 4 = 0 → Completes (.jr rs) s fun t => OnlyGoesTo s t (s.readReg rs))
      ∧ ((s.readReg rs).toNat % 4 ≠ 0 → exec (.jr rs) s = .fault .misalignedJumpTarget))
    ∧ (IsWordOf (0b000000#6 ++ rs ++ 0b00000#5 ++ rd ++ 0b00000#5 ++ 0b001001#6) (.jalr rd rs) .v1
      ∧ (rd ≠ rs → (s.readReg rs).toNat % 4 = 0 →
          Completes (.jalr rd rs) s fun t => WritesRegAndGoesTo s t rd (s.pc + 4) (s.readReg rs))
      ∧ (rd ≠ rs → (s.readReg rs).toNat % 4 ≠ 0 → exec (.jalr rd rs) s = .fault .misalignedJumpTarget)
      ∧ (rd = rs → exec (.jalr rd rs) s = .fault .jalrSameRegister))

/-- The six branches go to pc + 4 plus four times the signed offset, modulo 2^32, if their condition on the signed
readings holds, else to pc + 4; they change nothing else (R200 to R206). The wrap is the spec's decision D11 (entry 20);
the words of beq, bne and bgtz are MIPS32's, their figures being lost (spec GK1; PRESUMED, entry 13). -/
def Obligations.BranchResults : Prop :=
  ∀ (s : State) (rs rt : Reg) (imm : Imm16) (d : Word),
    (d.toNat : Int) = ((s.pc.toNat : Int) + 4 + imm.toInt * 4) % 2 ^ 32 →
    (IsWordOf (0b000100#6 ++ rs ++ rt ++ imm) (.beq rs rt imm) .v1
      ∧ Completes (.beq rs rt imm) s fun t => OnlyGoesTo s t (if s.readReg rs = s.readReg rt then d else s.pc + 4))
    ∧ (IsWordOf (0b000101#6 ++ rs ++ rt ++ imm) (.bne rs rt imm) .v1
      ∧ Completes (.bne rs rt imm) s fun t => OnlyGoesTo s t (if s.readReg rs ≠ s.readReg rt then d else s.pc + 4))
    ∧ (IsWordOf (0b000111#6 ++ rs ++ 0b00000#5 ++ imm) (.bgtz rs imm) .v2
      ∧ Completes (.bgtz rs imm) s fun t => OnlyGoesTo s t (if (s.readReg rs).toInt > 0 then d else s.pc + 4))
    ∧ (IsWordOf (0b000001#6 ++ rs ++ 0b00000#5 ++ imm) (.bltz rs imm) .v2
      ∧ Completes (.bltz rs imm) s fun t => OnlyGoesTo s t (if (s.readReg rs).toInt < 0 then d else s.pc + 4))
    ∧ (IsWordOf (0b000001#6 ++ rs ++ 0b00001#5 ++ imm) (.bgez rs imm) .v2
      ∧ Completes (.bgez rs imm) s fun t => OnlyGoesTo s t (if (s.readReg rs).toInt ≥ 0 then d else s.pc + 4))
    ∧ (IsWordOf (0b000110#6 ++ rs ++ 0b00000#5 ++ imm) (.blez rs imm) .v2
      ∧ Completes (.blez rs imm) s fun t => OnlyGoesTo s t (if (s.readReg rs).toInt ≤ 0 then d else s.pc + 4))

/-! ## Concurrency (spec/47_concurrency.md) -/

/-- amo.add, amo.and, amo.or at an aligned address: the old word goes to rd and its sum modulo 2^32, and, or or with the
source to memory, also where rd is the address or the source register; at a misaligned address the fault MisalignedData
(R209 to R212). The fault is the spec's decision D12, D33 (entry 16), the effect with rd = 0 its decision D34 (entry 30).
The wrap of amo.add is decision D5 (entry 20), the discarded write to register 0 D4 (entry 30). The truncation of the
address is decision D36, its length a parameter, D2 (entry 34). -/
def Obligations.AtomicResults : Prop :=
  ∀ (s : State) (rd rs rt : Reg),
    (IsWordOf (0b100111#6 ++ rs ++ rt ++ rd ++ 0b00000#5 ++ 0b000010#6) (.amoAdd rd rs rt) .v3
      ∧ ((s.readReg rs).toNat % 4 = 0 → Completes (.amoAdd rd rs rt) s fun t => ∃ v, AtomicResult s t rd rs v
          ∧ v.toNat = ((s.mem.word (s.paddr (s.readReg rs))).toNat + (s.readReg rt).toNat) % 2 ^ 32))
    ∧ (IsWordOf (0b100111#6 ++ rs ++ rt ++ rd ++ 0b00000#5 ++ 0b000011#6) (.amoAnd rd rs rt) .v3
      ∧ ((s.readReg rs).toNat % 4 = 0 → Completes (.amoAnd rd rs rt) s fun t =>
          AtomicResult s t rd rs (s.mem.word (s.paddr (s.readReg rs)) &&& s.readReg rt)))
    ∧ (IsWordOf (0b100111#6 ++ rs ++ rt ++ rd ++ 0b00000#5 ++ 0b000100#6) (.amoOr rd rs rt) .v3
      ∧ ((s.readReg rs).toNat % 4 = 0 → Completes (.amoOr rd rs rt) s fun t =>
          AtomicResult s t rd rs (s.mem.word (s.paddr (s.readReg rs)) ||| s.readReg rt)))
    ∧ ((s.readReg rs).toNat % 4 ≠ 0 → exec (.amoAdd rd rs rt) s = .fault .misalignedData
        ∧ exec (.amoAnd rd rs rt) s = .fault .misalignedData ∧ exec (.amoOr rd rs rt) s = .fault .misalignedData)

/-- sync changes nothing that its own core can observe: it reads and writes no register, no memory and no FIFO, and
advances pc. That a core's accesses are complete when its next instruction starts is the model's (entry 12). -/
def Obligations.SyncOnlyAdvances : Prop :=
  IsWordOf 0x0000000F .sync .v3 ∧ ∀ s : State, Completes .sync s fun t => OnlyGoesTo s t (s.pc + 4)

/-! ## Exceptions (spec/48_exception_instructions.md, spec/60_exceptions.md) -/

/-- syscall, in either mode, leaves its own address in epc, the mode supervisor and pc at 0x00000004, and changes no
general register, no memory and no coprocessor 0 register (R221, R232). That it does so in supervisor mode too is the
spec's decision D23 (entry 25); no rule is cited for it. -/
def Obligations.SyscallTakesTheException : Prop :=
  IsWordOf 0x0000000C .syscall .v4 ∧ ∀ s : State, Completes .syscall s fun t =>
    t.epc = s.pc ∧ t.epcSet = true ∧ t.mode = .supervisor ∧ t.pc = 0x00000004
      ∧ SameRegs s t ∧ SameMem s t ∧ SameFifos s t ∧ t.statsEn = s.statsEn ∧ SameSurroundings s t

/-- eret, in either mode, leaves pc at epc and the mode user, epc unchanged and nothing else changed: after a syscall has
written epc, and before any syscall where the parameter epcUnset says that the machine goes on with the value epc holds.
Before any syscall it faults UnsetEPC (R222) where the parameter says that. The two readings before any syscall are the
ways of decision D35, and which one holds is the model's parameter (DESIGN CHOICE, entry 2); the effect in user mode is
D23 (entry 25). -/
def Obligations.EretReturns : Prop :=
  IsWordOf 0x00000018 .eret .v4 ∧ ∀ s : State,
    (s.epcSet = true ∨ s.cfg.epcUnset = .resetValue →
      Completes .eret s fun t => t.pc = s.epc ∧ t.mode = .user ∧ t.epc = s.epc ∧ t.epcSet = s.epcSet
      ∧ SameRegs s t ∧ SameMem s t ∧ SameFifos s t ∧ t.statsEn = s.statsEn ∧ SameSurroundings s t)
    ∧ (s.epcSet = false ∧ s.cfg.epcUnset = .refuse → exec .eret s = .fault .unsetEPC)

/-- An eret straight after a syscall goes back to the syscall itself, in user mode, in whatever mode the syscall was taken
(R236). It is the literal reading that the spec decides for (C10, D22; entry 24). That both act in either mode is decision
D23 (entry 25). -/
def Obligations.EretAfterSyscallReturnsToTheSyscall : Prop :=
  ∀ s : State, ∃ t u, exec .syscall s = .next t ∧ exec .eret t = .next u ∧ u.pc = s.pc ∧ u.mode = .user ∧ SameRegs s u

/-- In any step, only syscall writes epc, and it writes its own address; eret and every other instruction, and every move
of another agent, leave it (R26). That software has no other access to epc is the spec's decision D22 (entry 24). -/
def Obligations.OnlySyscallWritesEpc : Prop :=
  ∀ s t : State, step s = .next t →
    (t.epc = s.epc ∧ t.epcSet = s.epcSet) ∨ (t.epc = s.pc ∧ t.epcSet = true ∧ t.pc = 0x00000004
      ∧ decode s.cfg.version (s.mem.word (s.paddr s.pc)) = .ok .syscall)

/-- In any step the mode changes only where the core runs syscall, to supervisor, or eret, to user (R27, R240). That
nothing else concerns the mode is the spec's decision D20 (entry 25). -/
def Obligations.ModeChangesOnlyBySyscallAndEret : Prop :=
  ∀ s t : State, step s = .next t → t.mode ≠ s.mode →
    (t.mode = .supervisor ∧ decode s.cfg.version (s.mem.word (s.paddr s.pc)) = .ok .syscall)
      ∨ (t.mode = .user ∧ decode s.cfg.version (s.mem.word (s.paddr s.pc)) = .ok .eret)

/-- Nothing reads the mode: two states that differ only in the mode step alike, but for the mode (R27, R240). It is the
spec's decision D20 (entry 25). -/
def Obligations.ModeIsReadByNothing : Prop :=
  ∀ (s : State) (m : Mode), forgetMode (step { s with mode := m }) = forgetMode (step s)

/-! ## Coprocessor 0 and the manager (spec/10_state.md, spec/40_cp0_moves.md, spec/60_exceptions.md) -/

/-- What a read of a coprocessor 0 register that changes nothing leaves is WritesReg; a read of mngr2proc also takes the
head item. mfc0 of mngr2proc with an item; with none it is held and changes nothing; mfc0 of numcores and coreid from
PARCv3, and of stats_en from PARCv2 where STATS_EN_READ is the last value written (R31, R33 to R35, R110). The hold as an
unchanged next state is the model's (entry 11), the read of stats_en a parameter (D18, entry 6). That mfc0 to register 0
still dequeues the item, and then discards it, is the spec's decision D34, the discarded write to register 0 D4 (DEDUCED,
entry 30). -/
def Obligations.MoveFromCoprocessorResults : Prop :=
  ∀ (s : State) (rt : Reg) (rd : CpReg),
    IsWordOf (0b010000#6 ++ 0b00000#5 ++ rt ++ rd ++ 0b00000#5 ++ 0b000000#6) (.mfc0 rt rd) .v1
    ∧ (∀ v rest, s.mngr2proc = v :: rest → Completes (.mfc0 rt 1) s fun t =>
        RegWritten s t rt v ∧ t.pc = s.pc + 4 ∧ t.mngr2proc = rest ∧ t.proc2mngr = s.proc2mngr ∧ SameMem s t
          ∧ SameException s t ∧ t.statsEn = s.statsEn ∧ SameSurroundings s t)
    ∧ (s.mngr2proc = [] → exec (.mfc0 rt 1) s = .next s)
    ∧ (3 ≤ s.cfg.version.number → Completes (.mfc0 rt 16) s fun t => WritesReg s t rt s.numcores)
    ∧ (3 ≤ s.cfg.version.number → Completes (.mfc0 rt 17) s fun t => WritesReg s t rt s.coreid)
    ∧ (2 ≤ s.cfg.version.number → s.cfg.statsRead = .lastWritten →
        Completes (.mfc0 rt 21) s fun t => WritesReg s t rt s.statsEn)

/-- mtc0 to proc2mngr with room appends the register's value at the tail; with the FIFO full it is held and changes
nothing; mtc0 to stats_en, from PARCv2, stores the value and changes nothing else (R32, R33, R111). That "not ready" is
full is the spec's decision D19 (entry 28), the hold as an unchanged next state the model's (entry 11). -/
def Obligations.MoveToCoprocessorResults : Prop :=
  ∀ (s : State) (rt : Reg) (rd : CpReg),
    IsWordOf (0b010000#6 ++ 0b00100#5 ++ rt ++ rd ++ 0b00000#5 ++ 0b000000#6) (.mtc0 rt rd) .v1
    ∧ ((∀ d, s.cfg.fifoDepth = some d → s.proc2mngr.length < d) → Completes (.mtc0 rt 2) s fun t =>
        t.proc2mngr = s.proc2mngr ++ [s.readReg rt] ∧ t.pc = s.pc + 4 ∧ SameRegs s t ∧ SameMem s t ∧ SameException s t
          ∧ t.mngr2proc = s.mngr2proc ∧ t.statsEn = s.statsEn ∧ SameSurroundings s t)
    ∧ (∀ d, s.cfg.fifoDepth = some d → d ≤ s.proc2mngr.length → exec (.mtc0 rt 2) s = .next s)
    ∧ (2 ≤ s.cfg.version.number → Completes (.mtc0 rt 21) s fun t =>
        t.statsEn = s.readReg rt ∧ t.pc = s.pc + 4 ∧ SameRegs s t ∧ SameMem s t ∧ SameException s t ∧ SameFifos s t
          ∧ SameSurroundings s t)

/-- mfc0 faults UndefinedCP0Access exactly at proc2mngr, at the numbers no register stands for in the machine's version,
and at stats_en where STATS_EN_READ is refuse; mtc0 exactly at mngr2proc, numcores, coreid and the numbers no register
stands for (R30, R36, R112). The fault is the spec's own decision (D17, D18; entry 18). That a register of a later version
is an undefined access is decision D16 (entry 15). -/
def Obligations.UndefinedCoprocessorAccessesFault : Prop :=
  ∀ (s : State) (rt : Reg) (n : CpReg),
    (exec (.mfc0 rt n) s = .fault .undefinedCP0Access ↔
      ¬(n = 1 ∨ ((n = 16 ∨ n = 17) ∧ 3 ≤ s.cfg.version.number)
        ∨ (n = 21 ∧ 2 ≤ s.cfg.version.number ∧ s.cfg.statsRead = .lastWritten)))
    ∧ (exec (.mtc0 rt n) s = .fault .undefinedCP0Access ↔ ¬(n = 2 ∨ (n = 21 ∧ 2 ≤ s.cfg.version.number)))

/-- The manager's moves: a send whose FIFO has room appends the item to the tail of mngr2proc, a receive from a FIFO that
is not empty takes the head of proc2mngr; neither changes a register, pc, memory or anything else of the core (R246). The
record of what the manager has received is the model's (entry 10). The agenda that orders the moves is the model's too. -/
def Obligations.ManagerMoves : Prop :=
  ∀ (s : State) (rest : List Move),
    (∀ v, s.agenda = .send v :: rest → (∀ d, s.cfg.fifoDepth = some d → s.mngr2proc.length < d) →
      step s = .next { s with agenda := rest, mngr2proc := s.mngr2proc ++ [v] })
    ∧ (∀ v items, s.agenda = .receive :: rest → s.proc2mngr = v :: items →
      step s = .next { s with agenda := rest, proc2mngr := items, received := s.received ++ [v] })

/-- Items reach the manager in the order written, none lost and none made up: in any step what the manager has received
followed by what is queued for it only grows at its end, by at most one item, a register's value (R32). The record of what
the manager has received is the model's (entry 10). -/
def Obligations.ItemsReachTheManagerInOrder : Prop :=
  ∀ s t : State, step s = .next t →
    t.received ++ t.proc2mngr = s.received ++ s.proc2mngr
      ∨ ∃ r, t.received ++ t.proc2mngr = (s.received ++ s.proc2mngr) ++ [s.readReg r]

/-- In any step mngr2proc stays as it is, loses its head, or gains one item at its tail that the manager sends (R31,
R246). That the manager's sends are moves of the agenda is the model's choice (entry 10). -/
def Obligations.ManagerItemsAreReadInOrder : Prop :=
  ∀ s t : State, step s = .next t →
    t.mngr2proc = s.mngr2proc ∨ (∃ v, s.mngr2proc = v :: t.mngr2proc)
      ∨ ∃ v rest, s.agenda = .send v :: rest ∧ t.mngr2proc = s.mngr2proc ++ [v]

/-- numcores, coreid and the implementation parameters are constant: no step changes them (R34, R35). That the parameters
are part of the state is the model's choice (entries 5, 33). -/
def Obligations.NumcoresAndCoreidAreConstant : Prop :=
  ∀ s t : State, step s = .next t → t.numcores = s.numcores ∧ t.coreid = s.coreid ∧ t.cfg = s.cfg

/-- A store of another core, in a system of more than one core, of a word or a halfword at an aligned address or of a byte
at any address, changes no register, no FIFO and no other part of this core: it stores its bytes little-endian from the
truncated address up, which then count as stored to, and changes no other byte. That another core's store arrives as a
move of the agenda is the model's choice (entry 9). That such a store takes effect as one move is decision D26 (entry 9),
that its bytes count as stored to D27 (entry 19). The truncation of the address is decision D36, its length a parameter,
D2 (entry 34). -/
def Obligations.RemoteStoresReachOnlyMemory : Prop :=
  ∀ (s : State) (rest : List Move) (a : Word), 1 < s.numcores.toNat →
    (∀ v, s.agenda = .remoteWord a v :: rest → a.toNat % 4 = 0 →
      ∃ t, step s = .next t ∧ RemoteStores s t rest (s.paddr a) 4
        ∧ ∀ k, k < 4 → t.mem.byte (s.paddr a + k) = v.extractLsb' (8 * k) 8)
    ∧ (∀ v, s.agenda = .remoteHalf a v :: rest → a.toNat % 2 = 0 →
      ∃ t, step s = .next t ∧ RemoteStores s t rest (s.paddr a) 2
        ∧ ∀ k, k < 2 → t.mem.byte (s.paddr a + k) = v.extractLsb' (8 * k) 8)
    ∧ (∀ v, s.agenda = .remoteByte a v :: rest →
      ∃ t, step s = .next t ∧ RemoteStores s t rest (s.paddr a) 1 ∧ t.mem.byte (s.paddr a) = v)

/-! ## Faults (spec/60_exceptions.md R234, spec/93_implementation_defined.md section 2) -/

/-- No instruction is refused, and an instruction faults only with a model fault of its own rule: most with none at all.
The faults are the spec's own decisions (D12, D13, D17, D24, D35; entries 2, 16, 17, 18). -/
def Obligations.FaultsAreTheInstructionsOwn : Prop :=
  ∀ (i : Instr) (s : State), (∀ f, exec i s = .fault f → f ∈ i.possibleFaults) ∧ ∀ r, exec i s ≠ .refused r

/-! ## The loaded image (spec/70_reset_and_hazards.md R263) -/

/-- Right after reset, whatever the parameters and IMAGE, memory holds the bytes of IMAGE where the loader placed them,
every other byte is free, none counts as stored to, and the rest is as reset leaves it: pc 0x00001000, register 0 reading
0, the mode supervisor, epc unwritten, the FIFOs empty. That there is an IMAGE, and that bytes outside it are unspecified,
is the spec's decision D28 (entries 7, 26), the mode D21 (entry 4), the empty FIFOs D19 (entry 28). -/
def Obligations.ResetHoldsTheImage : Prop :=
  ∀ (p : Config.Params) (numcores coreid : Word) (image : Image) (s : State), image.wf p.paddrBits = true →
    s = State.resetWith p numcores coreid image →
    (∀ a b, (a, b) ∈ image → s.mem.byte a = b)
    ∧ (∀ a, (∀ b, (a, b) ∉ image) → s.mem.byte? a = none ∧ s.mem.byte a = Config.ramByte a)
    ∧ s.modified = [] ∧ s.cfg = p ∧ s.numcores = numcores ∧ s.coreid = coreid ∧ s.pc = 0x00001000 ∧ s.readReg 0 = 0
    ∧ s.mode = .supervisor ∧ s.epcSet = false ∧ s.mngr2proc = [] ∧ s.proc2mngr = []

/-- The state after reset meets the invariant for all legal parameters and every IMAGE in physical memory. The image is
decision D28 (entry 26), the range of coreid D3 (entry 33), epc before any syscall the model's (entry 2). -/
def Obligations.EveryResetMeetsInv : Prop :=
  ∀ (p : Config.Params) (numcores coreid : Word) (image : Image), p.wf = true → image.wf p.paddrBits = true →
    1 ≤ numcores.toNat → (p.version.number < 3 → numcores = 1) → coreid.toNat < numcores.toNat →
    (State.resetWith p numcores coreid image).Inv

/-- The first step after reset runs the instruction whose word IMAGE holds, little-endian, at 0x00001000, in a machine of
any PADDR_BITS from 13 up (R260, R60). The image is decision D28 (entry 26). -/
def Obligations.FirstWordOfTheImageRunsFirst : Prop :=
  ∀ (p : Config.Params) (numcores coreid : Word) (i : Instr) (ws : List Word), p.wf = true →
    i.wellFormed p.version = true →
    step (State.resetWith p numcores coreid (imageOfWords 0x1000 (encode i :: ws)))
      = exec i (State.resetWith p numcores coreid (imageOfWords 0x1000 (encode i :: ws)))
end

