-- ==== Sys2Proof/Laws/Decode.lean ====
section
/-! SUPPORT. The fields of a word that is put together from fields, and a word put together from its fields
(spec/30_encoding.md R81 to R83). -/

namespace Sys2Proof

@[simp] theorem opField_rType (op : BitVec 6) (rs rt rd sa : BitVec 5) (func : BitVec 6) : opField (rType op rs rt rd sa func) = op := by
  unfold opField rType
  ext i hi
  simp only [BitVec.getElem_extractLsb', BitVec.getLsbD_append]
  interval_cases i <;> simp

@[simp] theorem rsField_rType (op : BitVec 6) (rs rt rd sa : BitVec 5) (func : BitVec 6) : rsField (rType op rs rt rd sa func) = rs := by
  unfold rsField rType
  ext i hi
  simp only [BitVec.getElem_extractLsb', BitVec.getLsbD_append]
  interval_cases i <;> simp

@[simp] theorem rtField_rType (op : BitVec 6) (rs rt rd sa : BitVec 5) (func : BitVec 6) : rtField (rType op rs rt rd sa func) = rt := by
  unfold rtField rType
  ext i hi
  simp only [BitVec.getElem_extractLsb', BitVec.getLsbD_append]
  interval_cases i <;> simp

@[simp] theorem rdField_rType (op : BitVec 6) (rs rt rd sa : BitVec 5) (func : BitVec 6) : rdField (rType op rs rt rd sa func) = rd := by
  unfold rdField rType
  ext i hi
  simp only [BitVec.getElem_extractLsb', BitVec.getLsbD_append]
  interval_cases i <;> simp

@[simp] theorem saField_rType (op : BitVec 6) (rs rt rd sa : BitVec 5) (func : BitVec 6) : saField (rType op rs rt rd sa func) = sa := by
  unfold saField rType
  ext i hi
  simp only [BitVec.getElem_extractLsb', BitVec.getLsbD_append]
  interval_cases i <;> simp

@[simp] theorem funcField_rType (op : BitVec 6) (rs rt rd sa : BitVec 5) (func : BitVec 6) : funcField (rType op rs rt rd sa func) = func := by
  unfold funcField rType
  ext i hi
  simp only [BitVec.getElem_extractLsb', BitVec.getLsbD_append]
  interval_cases i <;> simp

@[simp] theorem opField_iType (op : BitVec 6) (rs rt : BitVec 5) (imm : Imm16) : opField (iType op rs rt imm) = op := by
  unfold opField iType
  ext i hi
  simp only [BitVec.getElem_extractLsb', BitVec.getLsbD_append]
  interval_cases i <;> simp

@[simp] theorem rsField_iType (op : BitVec 6) (rs rt : BitVec 5) (imm : Imm16) : rsField (iType op rs rt imm) = rs := by
  unfold rsField iType
  ext i hi
  simp only [BitVec.getElem_extractLsb', BitVec.getLsbD_append]
  interval_cases i <;> simp

@[simp] theorem rtField_iType (op : BitVec 6) (rs rt : BitVec 5) (imm : Imm16) : rtField (iType op rs rt imm) = rt := by
  unfold rtField iType
  ext i hi
  simp only [BitVec.getElem_extractLsb', BitVec.getLsbD_append]
  interval_cases i <;> simp

@[simp] theorem immField_iType (op : BitVec 6) (rs rt : BitVec 5) (imm : Imm16) : immField (iType op rs rt imm) = imm := by
  unfold immField iType
  ext i hi
  simp only [BitVec.getElem_extractLsb', BitVec.getLsbD_append]
  interval_cases i <;> simp

@[simp] theorem opField_jType (op : BitVec 6) (target : Target) : opField (jType op target) = op := by
  unfold opField jType
  ext i hi
  simp only [BitVec.getElem_extractLsb', BitVec.getLsbD_append]
  interval_cases i <;> simp

@[simp] theorem targetField_jType (op : BitVec 6) (target : Target) : targetField (jType op target) = target := by
  unfold targetField jType
  ext i hi
  simp only [BitVec.getElem_extractLsb', BitVec.getLsbD_append]
  interval_cases i <;> simp

theorem rType_fields (w : Word) : rType (opField w) (rsField w) (rtField w) (rdField w) (saField w) (funcField w) = w := by
  unfold rType opField rsField rtField rdField saField funcField
  apply BitVec.eq_of_getLsbD_eq
  intro i hi
  simp only [BitVec.getLsbD_extractLsb', BitVec.getLsbD_append]
  interval_cases i <;> simp

theorem iType_fields (w : Word) : iType (opField w) (rsField w) (rtField w) (immField w) = w := by
  unfold iType opField rsField rtField immField
  apply BitVec.eq_of_getLsbD_eq
  intro i hi
  simp only [BitVec.getLsbD_extractLsb', BitVec.getLsbD_append]
  interval_cases i <;> simp

theorem jType_fields (w : Word) : jType (opField w) (targetField w) = w := by
  unfold jType opField targetField
  apply BitVec.eq_of_getLsbD_eq
  intro i hi
  simp only [BitVec.getLsbD_extractLsb', BitVec.getLsbD_append]
  interval_cases i <;> simp

/-- Masking a word of fields masks each field. -/
theorem rType_and (op op' : BitVec 6) (rs rt rd sa rs' rt' rd' sa' : BitVec 5) (func func' : BitVec 6) :
    rType op rs rt rd sa func &&& rType op' rs' rt' rd' sa' func'
      = rType (op &&& op') (rs &&& rs') (rt &&& rt') (rd &&& rd') (sa &&& sa') (func &&& func') := by
  unfold rType
  apply BitVec.eq_of_getLsbD_eq
  intro i hi
  simp only [BitVec.getLsbD_and, BitVec.getLsbD_append]
  interval_cases i <;> simp

theorem iType_and (op op' : BitVec 6) (rs rt rs' rt' : BitVec 5) (imm imm' : Imm16) :
    iType op rs rt imm &&& iType op' rs' rt' imm'
      = iType (op &&& op') (rs &&& rs') (rt &&& rt') (imm &&& imm') := by
  unfold iType
  apply BitVec.eq_of_getLsbD_eq
  intro i hi
  simp only [BitVec.getLsbD_and, BitVec.getLsbD_append]
  interval_cases i <;> simp

theorem jType_and (op op' : BitVec 6) (target target' : Target) :
    jType op target &&& jType op' target' = jType (op &&& op') (target &&& target') := by
  unfold jType
  apply BitVec.eq_of_getLsbD_eq
  intro i hi
  simp only [BitVec.getLsbD_and, BitVec.getLsbD_append]
  interval_cases i <;> simp

/-- The bytes of a word, put together again, are the word (R51). -/
@[simp] theorem wordOfBytes_byteOfWord (w : Word) :
    wordOfBytes (byteOfWord w 0) (byteOfWord w 1) (byteOfWord w 2) (byteOfWord w 3) = w := by
  unfold wordOfBytes byteOfWord
  apply BitVec.eq_of_getLsbD_eq
  intro i hi
  simp only [BitVec.getLsbD_extractLsb', BitVec.getLsbD_append]
  interval_cases i <;> simp

@[simp] theorem byteOfWord_wordOfBytes_zero (b0 b1 b2 b3 : Byte) : byteOfWord (wordOfBytes b0 b1 b2 b3) 0 = b0 := by
  unfold wordOfBytes byteOfWord
  ext i hi
  simp only [BitVec.getElem_extractLsb', BitVec.getLsbD_append]
  interval_cases i <;> simp

@[simp] theorem byteOfWord_wordOfBytes_one (b0 b1 b2 b3 : Byte) : byteOfWord (wordOfBytes b0 b1 b2 b3) 1 = b1 := by
  unfold wordOfBytes byteOfWord
  ext i hi
  simp only [BitVec.getElem_extractLsb', BitVec.getLsbD_append]
  interval_cases i <;> simp

@[simp] theorem byteOfWord_wordOfBytes_two (b0 b1 b2 b3 : Byte) : byteOfWord (wordOfBytes b0 b1 b2 b3) 2 = b2 := by
  unfold wordOfBytes byteOfWord
  ext i hi
  simp only [BitVec.getElem_extractLsb', BitVec.getLsbD_append]
  interval_cases i <;> simp

@[simp] theorem byteOfWord_wordOfBytes_three (b0 b1 b2 b3 : Byte) : byteOfWord (wordOfBytes b0 b1 b2 b3) 3 = b3 := by
  unfold wordOfBytes byteOfWord
  ext i hi
  simp only [BitVec.getElem_extractLsb', BitVec.getLsbD_append]
  interval_cases i <;> simp

/-- Decoding the bytes of a word decodes the word. -/
theorem decodeBytes_bytesOfWord (v : Config.Version) (w : Word) (rest : List Byte) :
    decodeBytes v (bytesOfWord w ++ rest) = (decode v w).map fun i => (i, rest) := by
  simp only [bytesOfWord, List.cons_append, List.nil_append, decodeBytes, wordOfBytes_byteOfWord]
  cases decode v w <;> rfl

/-- `decode` answers an instruction exactly when the word is one of the full ISA and of the machine's version. -/
theorem decode_eq_ok (v : Config.Version) (w : Word) (i : Instr) :
    decode v w = .ok i ↔ decodeWord w = some i ∧ i.wellFormed v = true := by
  unfold decode
  cases decodeWord w with
  | none => simp
  | some j => by_cases h : j.wellFormed v = true <;> simp [h] <;> rintro rfl <;> simpa using h

end Sys2Proof
end

