-- ==== Sys2Proof/Laws/Memory.lean ====
section
/-! SUPPORT. The memory and the set of modified addresses: what a read sees after a write, and that every operation keeps
the canonical form (spec/20_memory.md R52, R53; spec/10_state.md R38). -/

namespace Sys2Proof.Machine

/-! ## Bytes -/

/-- The byte listed after a write: the byte written at its address, what was listed before everywhere else. -/
theorem byte?_write (m : Memory) (a c : Nat) (b : Byte) :
    (m.write a b).byte? c = if c = a then some b else m.byte? c := by
  induction m with
  | nil => simp [Memory.write, Memory.byte?, eq_comm]
  | cons e m ih =>
    obtain ⟨k, d⟩ := e
    simp only [Memory.write]
    split
    · by_cases h : c = a
      · subst h; simp [Memory.byte?]
      · have : ¬ a = c := fun e => h e.symm
        simp [Memory.byte?, h, this]
    · split
      · next _ e =>
        subst e
        by_cases h : c = a
        · subst h; simp [Memory.byte?]
        · have : ¬ a = c := fun e => h e.symm
          simp [Memory.byte?, h, this]
      · next h1 h2 =>
        simp only [Memory.byte?, ih]
        by_cases h : c = a
        · subst h; simp [h2, eq_comm]
        · simp [h]

/-- The byte read after a write (R53). -/
theorem byte_write (m : Memory) (a c : Nat) (b : Byte) :
    (m.write a b).byte c = if c = a then b else m.byte c := by
  unfold Memory.byte
  rw [byte?_write]
  split <;> rfl

/-- The byte read after a store of several bytes: the byte stored inside, what was read before outside (R53). -/
theorem byte_writeBytes (bs : List Byte) (m : Memory) (a c : Nat) :
    (m.writeBytes a bs).byte c = if h : a ≤ c ∧ c < a + bs.length then bs[c - a]'(by omega) else m.byte c := by
  induction bs generalizing m a with
  | nil => simp only [Memory.writeBytes, List.length_nil]; rw [dif_neg (by omega)]
  | cons b bs ih =>
    simp only [Memory.writeBytes, ih, byte_write, List.length_cons]
    by_cases hc : c = a
    · subst hc; simp
    · by_cases h : a + 1 ≤ c ∧ c < a + 1 + bs.length
      · rw [dif_pos h, dif_pos (by omega)]
        obtain ⟨k, rfl⟩ : ∃ k, c = a + 1 + k := ⟨c - (a + 1), by omega⟩
        have e1 : a + 1 + k - (a + 1) = k := by omega
        have e2 : a + 1 + k - a = k + 1 := by omega
        simp only [e1, e2, List.getElem_cons_succ]
      · rw [dif_neg h, dif_neg (by omega), if_neg hc]

/-- A store leaves every byte outside it alone (R53). -/
theorem byte_writeBytes_outside (bs : List Byte) (m : Memory) (a c : Nat) (h : c < a ∨ a + bs.length ≤ c) :
    (m.writeBytes a bs).byte c = m.byte c := by
  rw [byte_writeBytes, dif_neg (by omega)]

/-- An address is listed after a store exactly if it was or is stored to. -/
theorem byte?_isSome_writeBytes (bs : List Byte) (m : Memory) (a c : Nat) :
    ((m.writeBytes a bs).byte? c).isSome = ((m.byte? c).isSome || (decide (a ≤ c) && decide (c < a + bs.length))) := by
  induction bs generalizing m a with
  | nil => simp only [Memory.writeBytes, List.length_nil]; by_cases h : a ≤ c <;> simp [h]
  | cons b bs ih =>
    simp only [Memory.writeBytes, ih, byte?_write, List.length_cons]
    by_cases hc : c = a
    · subst hc; simp
    · have h1 : (a + 1 ≤ c) ↔ (a ≤ c) := by omega
      have h2 : (c < a + 1 + bs.length) ↔ (c < a + (bs.length + 1)) := by omega
      simp [hc, h1, h2]

/-! ## Wide reads -/

/-- A word written is the word read (R51). -/
theorem word_writeBytes (m : Memory) (p : Nat) (w : Word) : (m.writeBytes p (bytesOfWord w)).word p = w := by
  have hb : (m.writeBytes p (bytesOfWord w)).word p
      = wordOfBytes (byteOfWord w 0) (byteOfWord w 1) (byteOfWord w 2) (byteOfWord w 3) := by
    simp only [Memory.word, byte_writeBytes]
    simp [bytesOfWord]
  rw [hb]
  unfold wordOfBytes byteOfWord
  apply BitVec.eq_of_getLsbD_eq
  intro i hi
  simp only [BitVec.getLsbD_extractLsb', BitVec.getLsbD_append]
  interval_cases i <;> simp

/-- A store outside a word leaves the word alone. -/
theorem word_writeBytes_outside (m : Memory) (p q : Nat) (bs : List Byte) (h : q + 4 ≤ p ∨ p + bs.length ≤ q) :
    (m.writeBytes p bs).word q = m.word q := by
  simp only [Memory.word]
  rw [byte_writeBytes_outside _ _ _ _ (by omega), byte_writeBytes_outside _ _ _ _ (by omega),
    byte_writeBytes_outside _ _ _ _ (by omega), byte_writeBytes_outside _ _ _ _ (by omega)]

/-! ## The canonical form -/

theorem mem_write (m : Memory) (a : Nat) (b : Byte) (e : Host.Cell) (h : e ∈ m.write a b) : e = (a, b) ∨ e ∈ m := by
  induction m with
  | nil => simpa [Memory.write] using h
  | cons k m ih =>
    simp only [Memory.write] at h
    split at h
    · simpa using h
    · split at h
      · rcases List.mem_cons.mp h with h | h
        · exact .inl h
        · exact .inr (List.mem_cons_of_mem _ h)
      · rcases List.mem_cons.mp h with h | h
        · exact .inr (by simp [h])
        · rcases ih h with h | h
          · exact .inl h
          · exact .inr (List.mem_cons_of_mem _ h)

/-- A write keeps the addresses strictly rising. -/
theorem wf_write (m : Memory) (a : Nat) (b : Byte) (h : m.wf) : (m.write a b).wf := by
  induction m with
  | nil => simp [Memory.write, Memory.wf]
  | cons e m ih =>
    obtain ⟨k, d⟩ := e
    obtain ⟨h1, h2⟩ := List.pairwise_cons.mp h
    simp only [Memory.write]
    split
    · next hk =>
      refine List.pairwise_cons.mpr ⟨fun c hc => ?_, h⟩
      rcases List.mem_cons.mp hc with rfl | hc
      · exact hk
      · exact Nat.lt_trans hk (h1 c hc)
    · split
      · next e => subst e; exact List.pairwise_cons.mpr ⟨h1, h2⟩
      · next hk hne =>
        refine List.pairwise_cons.mpr ⟨fun c hc => ?_, ih h2⟩
        rcases mem_write m a b c hc with rfl | hc
        · show k < a; omega
        · exact h1 c hc

/-- A store keeps the addresses strictly rising. -/
theorem wf_writeBytes (bs : List Byte) (m : Memory) (a : Nat) (h : m.wf) : (m.writeBytes a bs).wf := by
  induction bs generalizing m a with
  | nil => exact h
  | cons b bs ih => exact ih _ _ (wf_write m a b h)

/-- Every entry after a store was there before or is one stored to. -/
theorem mem_writeBytes (bs : List Byte) (m : Memory) (a : Nat) (e : Host.Cell) (h : e ∈ m.writeBytes a bs) :
    e ∈ m ∨ (a ≤ e.1 ∧ e.1 < a + bs.length) := by
  induction bs generalizing m a with
  | nil => exact .inl h
  | cons b bs ih =>
    rcases ih _ _ h with h | h
    · rcases mem_write _ _ _ _ h with rfl | h
      · exact .inr (by simp)
      · exact .inl h
    · exact .inr (by simp only [List.length_cons]; omega)

/-! ## The set of modified addresses -/

theorem mem_addAddress (ks : List Nat) (a c : Nat) : c ∈ addAddress ks a ↔ c = a ∨ c ∈ ks := by
  induction ks with
  | nil => simp [addAddress]
  | cons k ks ih =>
    simp only [addAddress]
    split
    · simp
    · split
      · next e => subst e; simp
      · simp only [List.mem_cons, ih]; tauto

/-- The addresses after adding a range. -/
theorem mem_addAddresses (n : Nat) (ks : List Nat) (a c : Nat) :
    c ∈ addAddresses ks a n ↔ c ∈ ks ∨ (a ≤ c ∧ c < a + n) := by
  induction n generalizing ks a with
  | zero => simp only [addAddresses]; constructor
            · exact .inl
            · rintro (h | h)
              · exact h
              · omega
  | succ n ih =>
    simp only [addAddresses, ih, mem_addAddress]
    constructor
    · rintro ((h | h) | h)
      · exact .inr (by omega)
      · exact .inl h
      · exact .inr (by omega)
    · rintro (h | h)
      · exact .inl (.inr h)
      · by_cases e : c = a
        · exact .inl (.inl e)
        · exact .inr (by omega)

theorem wf_addAddress (ks : List Nat) (a : Nat) (h : addressesWf ks) : addressesWf (addAddress ks a) := by
  induction ks with
  | nil => simp [addAddress, addressesWf]
  | cons k ks ih =>
    obtain ⟨h1, h2⟩ := List.pairwise_cons.mp h
    simp only [addAddress]
    split
    · next hk =>
      refine List.pairwise_cons.mpr ⟨fun c hc => ?_, h⟩
      rcases List.mem_cons.mp hc with rfl | hc
      · exact hk
      · exact Nat.lt_trans hk (h1 c hc)
    · split
      · exact h
      · next hk hne =>
        refine List.pairwise_cons.mpr ⟨fun c hc => ?_, ih h2⟩
        rcases (mem_addAddress ks a c).mp hc with rfl | hc
        · omega
        · exact h1 c hc

/-- Adding a range keeps the addresses strictly rising. -/
theorem wf_addAddresses (n : Nat) (ks : List Nat) (a : Nat) (h : addressesWf ks) : addressesWf (addAddresses ks a n) := by
  induction n generalizing ks a with
  | zero => exact h
  | succ n ih => exact ih _ _ (wf_addAddress ks a h)

end Sys2Proof.Machine
end

