-- ==== Sys2Proof/Laws/State.lean ====
section
/-! SUPPORT. One lemma per field per update of the state, so that no proof unfolds an update. -/

namespace Sys2Proof.Machine

variable (s : State)

/-! ## jumpTo -/

@[simp] theorem jumpTo_regs (t : Word) : (s.jumpTo t).regs = s.regs := rfl
@[simp] theorem jumpTo_pc (t : Word) : (s.jumpTo t).pc = t := rfl
@[simp] theorem jumpTo_epc (t : Word) : (s.jumpTo t).epc = s.epc := rfl
@[simp] theorem jumpTo_epcSet (t : Word) : (s.jumpTo t).epcSet = s.epcSet := rfl
@[simp] theorem jumpTo_mode (t : Word) : (s.jumpTo t).mode = s.mode := rfl
@[simp] theorem jumpTo_statsEn (t : Word) : (s.jumpTo t).statsEn = s.statsEn := rfl
@[simp] theorem jumpTo_numcores (t : Word) : (s.jumpTo t).numcores = s.numcores := rfl
@[simp] theorem jumpTo_coreid (t : Word) : (s.jumpTo t).coreid = s.coreid := rfl
@[simp] theorem jumpTo_mngr2proc (t : Word) : (s.jumpTo t).mngr2proc = s.mngr2proc := rfl
@[simp] theorem jumpTo_proc2mngr (t : Word) : (s.jumpTo t).proc2mngr = s.proc2mngr := rfl
@[simp] theorem jumpTo_mem (t : Word) : (s.jumpTo t).mem = s.mem := rfl
@[simp] theorem jumpTo_modified (t : Word) : (s.jumpTo t).modified = s.modified := rfl
@[simp] theorem jumpTo_cfg (t : Word) : (s.jumpTo t).cfg = s.cfg := rfl
@[simp] theorem jumpTo_agenda (t : Word) : (s.jumpTo t).agenda = s.agenda := rfl
@[simp] theorem jumpTo_received (t : Word) : (s.jumpTo t).received = s.received := rfl

/-! ## advance -/

@[simp] theorem advance_regs : (s.advance).regs = s.regs := rfl
@[simp] theorem advance_pc : (s.advance).pc = s.pc + 4 := rfl
@[simp] theorem advance_epc : (s.advance).epc = s.epc := rfl
@[simp] theorem advance_epcSet : (s.advance).epcSet = s.epcSet := rfl
@[simp] theorem advance_mode : (s.advance).mode = s.mode := rfl
@[simp] theorem advance_statsEn : (s.advance).statsEn = s.statsEn := rfl
@[simp] theorem advance_numcores : (s.advance).numcores = s.numcores := rfl
@[simp] theorem advance_coreid : (s.advance).coreid = s.coreid := rfl
@[simp] theorem advance_mngr2proc : (s.advance).mngr2proc = s.mngr2proc := rfl
@[simp] theorem advance_proc2mngr : (s.advance).proc2mngr = s.proc2mngr := rfl
@[simp] theorem advance_mem : (s.advance).mem = s.mem := rfl
@[simp] theorem advance_modified : (s.advance).modified = s.modified := rfl
@[simp] theorem advance_cfg : (s.advance).cfg = s.cfg := rfl
@[simp] theorem advance_agenda : (s.advance).agenda = s.agenda := rfl
@[simp] theorem advance_received : (s.advance).received = s.received := rfl

/-! ## setReg -/

@[simp] theorem setReg_pc (r : Reg) (v : Word) : (s.setReg r v).pc = s.pc := by unfold State.setReg; split <;> rfl
@[simp] theorem setReg_epc (r : Reg) (v : Word) : (s.setReg r v).epc = s.epc := by unfold State.setReg; split <;> rfl
@[simp] theorem setReg_epcSet (r : Reg) (v : Word) : (s.setReg r v).epcSet = s.epcSet := by unfold State.setReg; split <;> rfl
@[simp] theorem setReg_mode (r : Reg) (v : Word) : (s.setReg r v).mode = s.mode := by unfold State.setReg; split <;> rfl
@[simp] theorem setReg_statsEn (r : Reg) (v : Word) : (s.setReg r v).statsEn = s.statsEn := by unfold State.setReg; split <;> rfl
@[simp] theorem setReg_numcores (r : Reg) (v : Word) : (s.setReg r v).numcores = s.numcores := by unfold State.setReg; split <;> rfl
@[simp] theorem setReg_coreid (r : Reg) (v : Word) : (s.setReg r v).coreid = s.coreid := by unfold State.setReg; split <;> rfl
@[simp] theorem setReg_mngr2proc (r : Reg) (v : Word) : (s.setReg r v).mngr2proc = s.mngr2proc := by unfold State.setReg; split <;> rfl
@[simp] theorem setReg_proc2mngr (r : Reg) (v : Word) : (s.setReg r v).proc2mngr = s.proc2mngr := by unfold State.setReg; split <;> rfl
@[simp] theorem setReg_mem (r : Reg) (v : Word) : (s.setReg r v).mem = s.mem := by unfold State.setReg; split <;> rfl
@[simp] theorem setReg_modified (r : Reg) (v : Word) : (s.setReg r v).modified = s.modified := by unfold State.setReg; split <;> rfl
@[simp] theorem setReg_cfg (r : Reg) (v : Word) : (s.setReg r v).cfg = s.cfg := by unfold State.setReg; split <;> rfl
@[simp] theorem setReg_agenda (r : Reg) (v : Word) : (s.setReg r v).agenda = s.agenda := by unfold State.setReg; split <;> rfl
@[simp] theorem setReg_received (r : Reg) (v : Word) : (s.setReg r v).received = s.received := by unfold State.setReg; split <;> rfl

/-! ## writeBack -/

@[simp] theorem writeBack_regs (r : Reg) (v : Word) : (s.writeBack r v).regs = (s.setReg r v).regs := by simp [State.writeBack]
@[simp] theorem writeBack_pc (r : Reg) (v : Word) : (s.writeBack r v).pc = s.pc + 4 := by simp [State.writeBack]
@[simp] theorem writeBack_epc (r : Reg) (v : Word) : (s.writeBack r v).epc = s.epc := by simp [State.writeBack]
@[simp] theorem writeBack_epcSet (r : Reg) (v : Word) : (s.writeBack r v).epcSet = s.epcSet := by simp [State.writeBack]
@[simp] theorem writeBack_mode (r : Reg) (v : Word) : (s.writeBack r v).mode = s.mode := by simp [State.writeBack]
@[simp] theorem writeBack_statsEn (r : Reg) (v : Word) : (s.writeBack r v).statsEn = s.statsEn := by simp [State.writeBack]
@[simp] theorem writeBack_numcores (r : Reg) (v : Word) : (s.writeBack r v).numcores = s.numcores := by simp [State.writeBack]
@[simp] theorem writeBack_coreid (r : Reg) (v : Word) : (s.writeBack r v).coreid = s.coreid := by simp [State.writeBack]
@[simp] theorem writeBack_mngr2proc (r : Reg) (v : Word) : (s.writeBack r v).mngr2proc = s.mngr2proc := by simp [State.writeBack]
@[simp] theorem writeBack_proc2mngr (r : Reg) (v : Word) : (s.writeBack r v).proc2mngr = s.proc2mngr := by simp [State.writeBack]
@[simp] theorem writeBack_mem (r : Reg) (v : Word) : (s.writeBack r v).mem = s.mem := by simp [State.writeBack]
@[simp] theorem writeBack_modified (r : Reg) (v : Word) : (s.writeBack r v).modified = s.modified := by simp [State.writeBack]
@[simp] theorem writeBack_cfg (r : Reg) (v : Word) : (s.writeBack r v).cfg = s.cfg := by simp [State.writeBack]
@[simp] theorem writeBack_agenda (r : Reg) (v : Word) : (s.writeBack r v).agenda = s.agenda := by simp [State.writeBack]
@[simp] theorem writeBack_received (r : Reg) (v : Word) : (s.writeBack r v).received = s.received := by simp [State.writeBack]

/-! ## storeBytes -/

@[simp] theorem storeBytes_regs (p : Nat) (bs : List Byte) : (s.storeBytes p bs).regs = s.regs := rfl
@[simp] theorem storeBytes_pc (p : Nat) (bs : List Byte) : (s.storeBytes p bs).pc = s.pc := rfl
@[simp] theorem storeBytes_epc (p : Nat) (bs : List Byte) : (s.storeBytes p bs).epc = s.epc := rfl
@[simp] theorem storeBytes_epcSet (p : Nat) (bs : List Byte) : (s.storeBytes p bs).epcSet = s.epcSet := rfl
@[simp] theorem storeBytes_mode (p : Nat) (bs : List Byte) : (s.storeBytes p bs).mode = s.mode := rfl
@[simp] theorem storeBytes_statsEn (p : Nat) (bs : List Byte) : (s.storeBytes p bs).statsEn = s.statsEn := rfl
@[simp] theorem storeBytes_numcores (p : Nat) (bs : List Byte) : (s.storeBytes p bs).numcores = s.numcores := rfl
@[simp] theorem storeBytes_coreid (p : Nat) (bs : List Byte) : (s.storeBytes p bs).coreid = s.coreid := rfl
@[simp] theorem storeBytes_mngr2proc (p : Nat) (bs : List Byte) : (s.storeBytes p bs).mngr2proc = s.mngr2proc := rfl
@[simp] theorem storeBytes_proc2mngr (p : Nat) (bs : List Byte) : (s.storeBytes p bs).proc2mngr = s.proc2mngr := rfl
@[simp] theorem storeBytes_mem (p : Nat) (bs : List Byte) : (s.storeBytes p bs).mem = s.mem.writeBytes p bs := rfl
@[simp] theorem storeBytes_modified (p : Nat) (bs : List Byte) : (s.storeBytes p bs).modified = addAddresses s.modified p bs.length := rfl
@[simp] theorem storeBytes_cfg (p : Nat) (bs : List Byte) : (s.storeBytes p bs).cfg = s.cfg := rfl
@[simp] theorem storeBytes_agenda (p : Nat) (bs : List Byte) : (s.storeBytes p bs).agenda = s.agenda := rfl
@[simp] theorem storeBytes_received (p : Nat) (bs : List Byte) : (s.storeBytes p bs).received = s.received := rfl

/-! ## takeSyscall -/

@[simp] theorem takeSyscall_regs : (s.takeSyscall).regs = s.regs := rfl
@[simp] theorem takeSyscall_pc : (s.takeSyscall).pc = 0x00000004 := rfl
@[simp] theorem takeSyscall_epc : (s.takeSyscall).epc = s.pc := rfl
@[simp] theorem takeSyscall_epcSet : (s.takeSyscall).epcSet = true := rfl
@[simp] theorem takeSyscall_mode : (s.takeSyscall).mode = .supervisor := rfl
@[simp] theorem takeSyscall_statsEn : (s.takeSyscall).statsEn = s.statsEn := rfl
@[simp] theorem takeSyscall_numcores : (s.takeSyscall).numcores = s.numcores := rfl
@[simp] theorem takeSyscall_coreid : (s.takeSyscall).coreid = s.coreid := rfl
@[simp] theorem takeSyscall_mngr2proc : (s.takeSyscall).mngr2proc = s.mngr2proc := rfl
@[simp] theorem takeSyscall_proc2mngr : (s.takeSyscall).proc2mngr = s.proc2mngr := rfl
@[simp] theorem takeSyscall_mem : (s.takeSyscall).mem = s.mem := rfl
@[simp] theorem takeSyscall_modified : (s.takeSyscall).modified = s.modified := rfl
@[simp] theorem takeSyscall_cfg : (s.takeSyscall).cfg = s.cfg := rfl
@[simp] theorem takeSyscall_agenda : (s.takeSyscall).agenda = s.agenda := rfl
@[simp] theorem takeSyscall_received : (s.takeSyscall).received = s.received := rfl

/-! ## returnFromException -/

@[simp] theorem returnFromException_regs : (s.returnFromException).regs = s.regs := rfl
@[simp] theorem returnFromException_pc : (s.returnFromException).pc = s.epc := rfl
@[simp] theorem returnFromException_epc : (s.returnFromException).epc = s.epc := rfl
@[simp] theorem returnFromException_epcSet : (s.returnFromException).epcSet = s.epcSet := rfl
@[simp] theorem returnFromException_mode : (s.returnFromException).mode = .user := rfl
@[simp] theorem returnFromException_statsEn : (s.returnFromException).statsEn = s.statsEn := rfl
@[simp] theorem returnFromException_numcores : (s.returnFromException).numcores = s.numcores := rfl
@[simp] theorem returnFromException_coreid : (s.returnFromException).coreid = s.coreid := rfl
@[simp] theorem returnFromException_mngr2proc : (s.returnFromException).mngr2proc = s.mngr2proc := rfl
@[simp] theorem returnFromException_proc2mngr : (s.returnFromException).proc2mngr = s.proc2mngr := rfl
@[simp] theorem returnFromException_mem : (s.returnFromException).mem = s.mem := rfl
@[simp] theorem returnFromException_modified : (s.returnFromException).modified = s.modified := rfl
@[simp] theorem returnFromException_cfg : (s.returnFromException).cfg = s.cfg := rfl
@[simp] theorem returnFromException_agenda : (s.returnFromException).agenda = s.agenda := rfl
@[simp] theorem returnFromException_received : (s.returnFromException).received = s.received := rfl

/-! ## The register view (R21) -/

@[simp] theorem readReg_zero : s.readReg 0 = 0 := rfl

/-- Reading a register depends on the register file alone. -/
theorem readReg_congr (t : State) (h : t.regs = s.regs) (r : Reg) : t.readReg r = s.readReg r := by
  simp [State.readReg, h]

/-- What a write to a register does to every register: register 0 discards it, no other register changes. -/
theorem readReg_setReg (r q : Reg) (v : Word) :
    (s.setReg r v).readReg q = if q = r ∧ r ≠ 0 then v else s.readReg q := by
  by_cases hr : r = 0
  · rw [State.setReg, if_pos hr, if_neg (fun h => h.2 hr)]
  · rw [State.setReg, if_neg hr]
    by_cases hq : q = r
    · subst hq
      rw [if_pos ⟨rfl, hr⟩, State.readReg, if_neg hr]
      exact Vector.getElem_set_self q.isLt
    · rw [if_neg (fun h => hq h.1), State.readReg, State.readReg]
      by_cases h0 : q = 0
      · rw [if_pos h0, if_pos h0]
      · rw [if_neg h0, if_neg h0]
        exact Vector.getElem_set_ne r.isLt q.isLt fun h => hq (BitVec.eq_of_toNat_eq h.symm)

@[simp] theorem readReg_jumpTo (t : Word) (r : Reg) : (s.jumpTo t).readReg r = s.readReg r := rfl
@[simp] theorem readReg_advance (r : Reg) : s.advance.readReg r = s.readReg r := rfl
@[simp] theorem readReg_storeBytes (p : Nat) (bs : List Byte) (r : Reg) : (s.storeBytes p bs).readReg r = s.readReg r := rfl
@[simp] theorem readReg_takeSyscall (r : Reg) : s.takeSyscall.readReg r = s.readReg r := rfl
@[simp] theorem readReg_returnFromException (r : Reg) : s.returnFromException.readReg r = s.readReg r := rfl

/-- What the end of an instruction with one result does to every register. -/
theorem readReg_writeBack (r q : Reg) (v : Word) :
    (s.writeBack r v).readReg q = if q = r ∧ r ≠ 0 then v else s.readReg q := by
  rw [State.writeBack, readReg_advance, readReg_setReg]

/-- A write keeps slot 0 of the register file. -/
theorem setReg_slot_zero (r : Reg) (v : Word) (h : s.regs[0] = 0) : (s.setReg r v).regs[0] = 0 := by
  unfold State.setReg
  split
  · exact h
  · next hr =>
    have : r.toNat ≠ 0 := fun e => hr (BitVec.eq_of_toNat_eq (by simpa using e))
    simpa [Vector.getElem_set_ne _ _ this] using h

/-! ## Physical addresses -/

@[simp] theorem paddr_jumpTo (t a : Word) : (s.jumpTo t).paddr a = s.paddr a := rfl
@[simp] theorem paddr_advance (a : Word) : s.advance.paddr a = s.paddr a := rfl
@[simp] theorem paddr_storeBytes (p : Nat) (bs : List Byte) (a : Word) : (s.storeBytes p bs).paddr a = s.paddr a := rfl
@[simp] theorem paddr_setReg (r : Reg) (v a : Word) : (s.setReg r v).paddr a = s.paddr a := by simp [State.paddr]

theorem paddr_lt (a : Word) : s.paddr a < 2 ^ s.cfg.paddrBits := Nat.mod_lt _ (Nat.two_pow_pos _)

end Sys2Proof.Machine
end

