-- ==== Sys2Proof/Laws/Ops.lean ====
section
/-! SUPPORT. One lemma per shared operation that says once everything it can do; proofs cite these and unfold no operation. -/

namespace Sys2Proof.Machine

/-! ## Alignment and memory accesses -/

@[simp] theorem aligned_iff (a : Word) (n : Nat) : aligned a n = true ↔ a.toNat % n = 0 := by simp [aligned]

theorem ifAligned_eq_ok {α : Type} (a : Word) (n : Nat) (x y : α) :
    ifAligned a n x = .ok y ↔ a.toNat % n = 0 ∧ x = y := by
  by_cases h : a.toNat % n = 0 <;> simp [ifAligned, aligned, h]

theorem ifAligned_eq_error {α : Type} (a : Word) (n : Nat) (x : α) (f : Fault) :
    ifAligned a n x = .error f ↔ a.toNat % n ≠ 0 ∧ f = .misalignedData := by
  by_cases h : a.toNat % n = 0
  · simp [ifAligned, aligned, h]
  · simp only [ifAligned, aligned, h, beq_iff_eq, if_false, Except.error.injEq, ne_eq, not_false_iff, true_and]
    exact eq_comm

theorem ifAligned_of_aligned {α : Type} {a : Word} {n : Nat} (x : α) (h : a.toNat % n = 0) : ifAligned a n x = .ok x :=
  (ifAligned_eq_ok a n x x).mpr ⟨h, rfl⟩

theorem ifAligned_of_misaligned {α : Type} {a : Word} {n : Nat} (x : α) (h : a.toNat % n ≠ 0) :
    ifAligned a n x = .error .misalignedData :=
  (ifAligned_eq_error a n x _).mpr ⟨h, rfl⟩

theorem loadWord_eq_ok (s : State) (a v : Word) : s.loadWord a = .ok v ↔ a.toNat % 4 = 0 ∧ s.mem.word (s.paddr a) = v :=
  ifAligned_eq_ok a 4 _ v

theorem loadHalf_eq_ok (s : State) (a : Word) (v : Half) :
    s.loadHalf a = .ok v ↔ a.toNat % 2 = 0 ∧ s.mem.half (s.paddr a) = v :=
  ifAligned_eq_ok a 2 _ v

theorem storeWord_eq_ok (s t : State) (a v : Word) :
    s.storeWord a v = .ok t ↔ a.toNat % 4 = 0 ∧ s.storeBytes (s.paddr a) (bytesOfWord v) = t :=
  ifAligned_eq_ok a 4 _ t

theorem storeHalf_eq_ok (s t : State) (a : Word) (v : Half) :
    s.storeHalf a v = .ok t ↔ a.toNat % 2 = 0 ∧ s.storeBytes (s.paddr a) (bytesOfHalf v) = t :=
  ifAligned_eq_ok a 2 _ t

@[simp] theorem bytesOfWord_length (w : Word) : (bytesOfWord w).length = 4 := rfl
@[simp] theorem bytesOfHalf_length (h : Half) : (bytesOfHalf h).length = 2 := rfl

/-! ## How an instruction with an access ends -/

theorem complete_eq_next {α : Type} (x : Except Fault α) (k : α → State) (t : State) :
    complete x k = .next t ↔ ∃ a, x = .ok a ∧ k a = t := by
  cases x <;> simp [complete]

theorem complete_eq_fault {α : Type} (x : Except Fault α) (k : α → State) (f : Fault) :
    complete x k = .fault f ↔ x = .error f := by
  cases x <;> simp [complete]

theorem finish_eq_next {α : Type} (s : State) (x : Cp0Access α) (k : α → State) (t : State) :
    s.finish x k = .next t ↔ (∃ a, x = .done a ∧ k a = t) ∨ (x = .hold ∧ s = t) := by
  cases x <;> simp [State.finish]

theorem finish_eq_fault {α : Type} (s : State) (x : Cp0Access α) (k : α → State) (f : Fault) :
    s.finish x k = .fault f ↔ x = .fault f := by
  cases x <;> simp [State.finish]

/-- An atomic that completes has read an aligned word, stored the operation's result there and written the old word to its
destination (spec/47_concurrency.md R209). -/
theorem fetchAndOp_eq_next (s t : State) (rd rs rt : Reg) (op : Word → Word → Word) :
    s.fetchAndOp rd rs rt op = .next t ↔ (s.readReg rs).toNat % 4 = 0 ∧
      (s.storeBytes (s.paddr (s.readReg rs))
        (bytesOfWord (op (s.mem.word (s.paddr (s.readReg rs))) (s.readReg rt)))).writeBack rd
          (s.mem.word (s.paddr (s.readReg rs))) = t := by
  simp only [State.fetchAndOp, complete_eq_next, loadWord_eq_ok]
  constructor
  · rintro ⟨_, ⟨h, rfl⟩, ht⟩; exact ⟨h, ht⟩
  · rintro ⟨h, ht⟩; exact ⟨_, ⟨h, rfl⟩, ht⟩

/-! ## Coprocessor 0 -/

theorem hasVersion_iff (s : State) (v : Config.Version) : s.hasVersion v = true ↔ v.number ≤ s.cfg.version.number := by
  simp [State.hasVersion, Config.Version.le]

theorem fromVersion_eq_fault {α : Type} (s : State) (v : Config.Version) (x : Cp0Access α) (f : Fault) :
    s.fromVersion v x = .fault f ↔
      (s.hasVersion v = true ∧ x = .fault f) ∨ (s.hasVersion v = false ∧ f = .undefinedCP0Access) := by
  by_cases h : s.hasVersion v = true
  · simp [State.fromVersion, h]
  · simp [State.fromVersion, h, eq_comm]

theorem fromVersion_eq_done {α : Type} (s : State) (v : Config.Version) (x : Cp0Access α) (a : α) :
    s.fromVersion v x = .done a ↔ s.hasVersion v = true ∧ x = .done a := by
  by_cases h : s.hasVersion v = true <;> simp [State.fromVersion, h]

/-- Everything a read of coprocessor 0 can do if it is done: dequeue mngr2proc, or answer a register and change nothing
(spec/10_state.md R30). -/
theorem cp0Read_eq_done {s u : State} {n : CpReg} {v : Word} (h : s.cp0Read n = .done (v, u)) :
    (n = 1 ∧ ∃ rest, s.mngr2proc = v :: rest ∧ u = { s with mngr2proc := rest })
      ∨ (u = s ∧ ((n = 16 ∧ v = s.numcores) ∨ (n = 17 ∧ v = s.coreid) ∨ (n = 21 ∧ v = s.statsEn))) := by
  unfold State.cp0Read at h
  split at h
  · left
    refine ⟨rfl, ?_⟩
    unfold State.dequeueMngr at h
    split at h
    · cases h
    · next e => cases h; exact ⟨_, e, rfl⟩
  · right; obtain ⟨-, h⟩ := (fromVersion_eq_done _ _ _ _).mp h; cases h; exact ⟨rfl, .inl ⟨rfl, rfl⟩⟩
  · right; obtain ⟨-, h⟩ := (fromVersion_eq_done _ _ _ _).mp h; cases h; exact ⟨rfl, .inr (.inl ⟨rfl, rfl⟩)⟩
  · right
    obtain ⟨-, h⟩ := (fromVersion_eq_done _ _ _ _).mp h
    unfold State.readStatsEn at h
    split at h
    · cases h; exact ⟨rfl, .inr (.inr ⟨rfl, rfl⟩)⟩
    · cases h
  · cases h

/-- Everything a write of coprocessor 0 can do if it is done: enqueue on proc2mngr while there is room, or write stats_en
(spec/10_state.md R30). -/
theorem cp0Write_eq_done {s u : State} {n : CpReg} {v : Word} (h : s.cp0Write n v = .done u) :
    (n = 2 ∧ s.hasRoom s.proc2mngr = true ∧ u = { s with proc2mngr := s.proc2mngr ++ [v] })
      ∨ (n = 21 ∧ u = { s with statsEn := v }) := by
  unfold State.cp0Write at h
  split at h
  · left
    unfold State.enqueueProc at h
    split at h
    · next e => cases h; exact ⟨rfl, e, rfl⟩
    · cases h
  · right; obtain ⟨-, h⟩ := (fromVersion_eq_done _ _ _ _).mp h; cases h; exact ⟨rfl, rfl⟩
  · cases h

/-- A read of coprocessor 0 holds only on an empty mngr2proc (spec/70_reset_and_hazards.md R268). -/
theorem cp0Read_eq_hold {s : State} {n : CpReg} (h : s.cp0Read n = .hold) : n = 1 ∧ s.mngr2proc = [] := by
  unfold State.cp0Read State.fromVersion State.readStatsEn State.dequeueMngr at h
  split at h
  · split at h
    · next e => exact ⟨rfl, e⟩
    · cases h
  · split at h <;> cases h
  · split at h <;> cases h
  · split at h
    · split at h <;> cases h
    · cases h
  · cases h

/-- A write of coprocessor 0 holds only on a full proc2mngr (spec/70_reset_and_hazards.md R268). -/
theorem cp0Write_eq_hold {s : State} {n : CpReg} {v : Word} (h : s.cp0Write n v = .hold) :
    n = 2 ∧ s.hasRoom s.proc2mngr = false := by
  unfold State.cp0Write State.fromVersion State.enqueueProc at h
  split at h
  · split at h
    · cases h
    · next e => exact ⟨rfl, by simpa using e⟩
  · split at h <;> cases h
  · cases h

/-- The one fault of a read of coprocessor 0. -/
theorem cp0Read_eq_fault {s : State} {n : CpReg} {f : Fault} (h : s.cp0Read n = .fault f) : f = .undefinedCP0Access := by
  unfold State.cp0Read State.fromVersion State.readStatsEn State.dequeueMngr at h
  split at h
  · split at h <;> cases h
  · split at h <;> cases h; rfl
  · split at h <;> cases h; rfl
  · split at h
    · split at h <;> cases h; rfl
    · cases h; rfl
  · cases h; rfl

/-- The one fault of a write of coprocessor 0. -/
theorem cp0Write_eq_fault {s : State} {n : CpReg} {v : Word} {f : Fault} (h : s.cp0Write n v = .fault f) :
    f = .undefinedCP0Access := by
  unfold State.cp0Write State.fromVersion State.enqueueProc at h
  split at h
  · split at h <;> cases h
  · split at h <;> cases h; rfl
  · cases h; rfl

/-! ## The return from the exception -/

/-- eret may read epc after a syscall, and before any where the machine goes on with the value epc holds (D35; entry 2). -/
@[simp] theorem epcReadable_iff (s : State) : s.epcReadable = true ↔ s.epcSet = true ∨ s.cfg.epcUnset = .resetValue := by
  simp [State.epcReadable]

/-! ## Fetching -/

/-- A fetch that answers an instruction has read a word at an aligned pc, no byte of which was stored to, and decoded it
(spec/20_memory.md R60, R66; spec/60_exceptions.md R250). -/
theorem fetchInstr_eq_ok (s : State) (i : Instr) :
    s.fetchInstr = .ok i ↔ (∀ a ∈ s.modified, a < s.paddr s.pc ∨ s.paddr s.pc + 4 ≤ a) ∧ s.pc.toNat % 4 = 0 ∧
      decode s.cfg.version (s.mem.word (s.paddr s.pc)) = .ok i := by
  unfold State.fetchInstr State.fetch
  by_cases hm : (s.modified.any fun a => s.paddr s.pc ≤ a && a < s.paddr s.pc + 4) = true
  · rw [if_pos hm]
    obtain ⟨a, ha, h⟩ := List.any_eq_true.mp hm
    simp only [Bool.and_eq_true, decide_eq_true_eq] at h
    constructor
    · rintro ⟨⟩
    · rintro ⟨h', -⟩; have := h' a ha; omega
  · rw [if_neg hm]
    have hm' : ∀ a ∈ s.modified, a < s.paddr s.pc ∨ s.paddr s.pc + 4 ≤ a := by
      intro a ha
      by_contra hc
      exact hm (List.any_eq_true.mpr ⟨a, ha, by simp only [Bool.and_eq_true, decide_eq_true_eq]; omega⟩)
    by_cases hp : s.pc.toNat % 4 = 0
    · rw [State.loadWord, ifAligned_of_aligned _ hp]
      simp only [hp, true_and]
      cases decode s.cfg.version (s.mem.word (s.paddr s.pc)) with
      | error e => simp
      | ok j => simp only [Except.ok.injEq]; exact (and_iff_right hm').symm
    · rw [State.loadWord, ifAligned_of_misaligned _ hp]
      simp [hp]

end Sys2Proof.Machine
end

