-- ==== Sys2Proof/Laws/Exec.lean ====
section
/-! SUPPORT. Which meaning each instruction has: exec is never unfolded elsewhere. -/

namespace Sys2Proof.Machine

variable (s : State)

@[simp] theorem exec_mfc0 (rt : Reg) (rd : CpReg) : exec (.mfc0 rt rd) s = execMfc0 rt rd s := rfl
@[simp] theorem exec_mtc0 (rt : Reg) (rd : CpReg) : exec (.mtc0 rt rd) s = execMtc0 rt rd s := rfl
@[simp] theorem exec_addu (rd rs rt : Reg) : exec (.addu rd rs rt) s = execAddu rd rs rt s := rfl
@[simp] theorem exec_subu (rd rs rt : Reg) : exec (.subu rd rs rt) s = execSubu rd rs rt s := rfl
@[simp] theorem exec_and (rd rs rt : Reg) : exec (.and rd rs rt) s = execAnd rd rs rt s := rfl
@[simp] theorem exec_or (rd rs rt : Reg) : exec (.or rd rs rt) s = execOr rd rs rt s := rfl
@[simp] theorem exec_xor (rd rs rt : Reg) : exec (.xor rd rs rt) s = execXor rd rs rt s := rfl
@[simp] theorem exec_nor (rd rs rt : Reg) : exec (.nor rd rs rt) s = execNor rd rs rt s := rfl
@[simp] theorem exec_slt (rd rs rt : Reg) : exec (.slt rd rs rt) s = execSlt rd rs rt s := rfl
@[simp] theorem exec_sltu (rd rs rt : Reg) : exec (.sltu rd rs rt) s = execSltu rd rs rt s := rfl
@[simp] theorem exec_srav (rd rt rs : Reg) : exec (.srav rd rt rs) s = execSrav rd rt rs s := rfl
@[simp] theorem exec_srlv (rd rt rs : Reg) : exec (.srlv rd rt rs) s = execSrlv rd rt rs s := rfl
@[simp] theorem exec_sllv (rd rt rs : Reg) : exec (.sllv rd rt rs) s = execSllv rd rt rs s := rfl
@[simp] theorem exec_mul (rd rs rt : Reg) : exec (.mul rd rs rt) s = execMul rd rs rt s := rfl
@[simp] theorem exec_div (rd rs rt : Reg) : exec (.div rd rs rt) s = execDiv rd rs rt s := rfl
@[simp] theorem exec_divu (rd rs rt : Reg) : exec (.divu rd rs rt) s = execDivu rd rs rt s := rfl
@[simp] theorem exec_rem (rd rs rt : Reg) : exec (.rem rd rs rt) s = execRem rd rs rt s := rfl
@[simp] theorem exec_remu (rd rs rt : Reg) : exec (.remu rd rs rt) s = execRemu rd rs rt s := rfl
@[simp] theorem exec_addiu (rt rs : Reg) (imm : Imm16) : exec (.addiu rt rs imm) s = execAddiu rt rs imm s := rfl
@[simp] theorem exec_lui (rt : Reg) (imm : Imm16) : exec (.lui rt imm) s = execLui rt imm s := rfl
@[simp] theorem exec_ori (rt rs : Reg) (imm : Imm16) : exec (.ori rt rs imm) s = execOri rt rs imm s := rfl
@[simp] theorem exec_andi (rt rs : Reg) (imm : Imm16) : exec (.andi rt rs imm) s = execAndi rt rs imm s := rfl
@[simp] theorem exec_xori (rt rs : Reg) (imm : Imm16) : exec (.xori rt rs imm) s = execXori rt rs imm s := rfl
@[simp] theorem exec_slti (rt rs : Reg) (imm : Imm16) : exec (.slti rt rs imm) s = execSlti rt rs imm s := rfl
@[simp] theorem exec_sltiu (rt rs : Reg) (imm : Imm16) : exec (.sltiu rt rs imm) s = execSltiu rt rs imm s := rfl
@[simp] theorem exec_sra (rd rt : Reg) (sa : Shamt) : exec (.sra rd rt sa) s = execSra rd rt sa s := rfl
@[simp] theorem exec_srl (rd rt : Reg) (sa : Shamt) : exec (.srl rd rt sa) s = execSrl rd rt sa s := rfl
@[simp] theorem exec_sll (rd rt : Reg) (sa : Shamt) : exec (.sll rd rt sa) s = execSll rd rt sa s := rfl
@[simp] theorem exec_lw (rt rs : Reg) (imm : Imm16) : exec (.lw rt rs imm) s = execLw rt rs imm s := rfl
@[simp] theorem exec_lh (rt rs : Reg) (imm : Imm16) : exec (.lh rt rs imm) s = execLh rt rs imm s := rfl
@[simp] theorem exec_lhu (rt rs : Reg) (imm : Imm16) : exec (.lhu rt rs imm) s = execLhu rt rs imm s := rfl
@[simp] theorem exec_lb (rt rs : Reg) (imm : Imm16) : exec (.lb rt rs imm) s = execLb rt rs imm s := rfl
@[simp] theorem exec_lbu (rt rs : Reg) (imm : Imm16) : exec (.lbu rt rs imm) s = execLbu rt rs imm s := rfl
@[simp] theorem exec_sw (rt rs : Reg) (imm : Imm16) : exec (.sw rt rs imm) s = execSw rt rs imm s := rfl
@[simp] theorem exec_sh (rt rs : Reg) (imm : Imm16) : exec (.sh rt rs imm) s = execSh rt rs imm s := rfl
@[simp] theorem exec_sb (rt rs : Reg) (imm : Imm16) : exec (.sb rt rs imm) s = execSb rt rs imm s := rfl
@[simp] theorem exec_j (target : Target) : exec (.j target) s = execJ target s := rfl
@[simp] theorem exec_jr (rs : Reg) : exec (.jr rs) s = execJr rs s := rfl
@[simp] theorem exec_jalr (rd rs : Reg) : exec (.jalr rd rs) s = execJalr rd rs s := rfl
@[simp] theorem exec_jal (target : Target) : exec (.jal target) s = execJal target s := rfl
@[simp] theorem exec_beq (rs rt : Reg) (imm : Imm16) : exec (.beq rs rt imm) s = execBeq rs rt imm s := rfl
@[simp] theorem exec_bne (rs rt : Reg) (imm : Imm16) : exec (.bne rs rt imm) s = execBne rs rt imm s := rfl
@[simp] theorem exec_bgtz (rs : Reg) (imm : Imm16) : exec (.bgtz rs imm) s = execBgtz rs imm s := rfl
@[simp] theorem exec_bltz (rs : Reg) (imm : Imm16) : exec (.bltz rs imm) s = execBltz rs imm s := rfl
@[simp] theorem exec_bgez (rs : Reg) (imm : Imm16) : exec (.bgez rs imm) s = execBgez rs imm s := rfl
@[simp] theorem exec_blez (rs : Reg) (imm : Imm16) : exec (.blez rs imm) s = execBlez rs imm s := rfl
@[simp] theorem exec_amoAdd (rd rs rt : Reg) : exec (.amoAdd rd rs rt) s = execAmoAdd rd rs rt s := rfl
@[simp] theorem exec_amoAnd (rd rs rt : Reg) : exec (.amoAnd rd rs rt) s = execAmoAnd rd rs rt s := rfl
@[simp] theorem exec_amoOr (rd rs rt : Reg) : exec (.amoOr rd rs rt) s = execAmoOr rd rs rt s := rfl
@[simp] theorem exec_sync : exec (.sync) s = execSync s := rfl
@[simp] theorem exec_syscall : exec (.syscall) s = execSyscall s := rfl
@[simp] theorem exec_eret : exec (.eret) s = execEret s := rfl

/-! ## What an instruction can do -/

/-- The shapes of a completed instruction: each changes the few named parts and nothing else. -/
inductive ExecEffect (i : Instr) (s : State) : State → Prop where
  /-- A result goes to the destination and pc advances. -/
  | result (r : Reg) (v : Word) (h : i.destination = some r) (hs : i.storeRange s = none) : ExecEffect i s (s.writeBack r v)
  /-- pc goes to an address that is a multiple of 4 if pc is. -/
  | jump (t : Word) (h : s.pc.toNat % 4 = 0 → t.toNat % 4 = 0) (hs : i.storeRange s = none) : ExecEffect i s (s.jumpTo t)
  /-- The link goes to the destination and pc to an aligned target. -/
  | link (r : Reg) (v t : Word) (hd : i.destination = some r) (h : s.pc.toNat % 4 = 0 → t.toNat % 4 = 0)
      (hs : i.storeRange s = none) : ExecEffect i s ((s.setReg r v).jumpTo t)
  /-- Bytes are stored and pc advances. -/
  | store (a : Word) (bs : List Byte) (h : i.storeRange s = some (s.paddr a, bs.length)) (ha : a.toNat % bs.length = 0)
      (hl : bs.length = 1 ∨ bs.length = 2 ∨ bs.length = 4) : ExecEffect i s (s.storeBytes (s.paddr a) bs).advance
  /-- A word is stored, the old word goes to the destination and pc advances. -/
  | atomic (a w : Word) (r : Reg) (v : Word) (hd : i.destination = some r) (h : i.storeRange s = some (s.paddr a, 4))
      (ha : a.toNat % 4 = 0) : ExecEffect i s ((s.storeBytes (s.paddr a) (bytesOfWord w)).writeBack r v)
  /-- The head of mngr2proc goes to the destination and pc advances. -/
  | dequeue (r : Reg) (v : Word) (rest : List Word) (hd : i.destination = some r) (h : s.mngr2proc = v :: rest)
      (hs : i.storeRange s = none) : ExecEffect i s (State.writeBack { s with mngr2proc := rest } r v)
  /-- A register's value is appended to proc2mngr, which had room, and pc advances. -/
  | enqueue (r : Reg) (h : s.hasRoom s.proc2mngr = true) (hs : i.storeRange s = none) :
      ExecEffect i s (State.advance { s with proc2mngr := s.proc2mngr ++ [s.readReg r] })
  /-- stats_en receives a register's value and pc advances. -/
  | stats (r : Reg) (hs : i.storeRange s = none) : ExecEffect i s (State.advance { s with statsEn := s.readReg r })
  /-- syscall takes the exception. -/
  | trap (h : i = .syscall) : ExecEffect i s s.takeSyscall
  /-- eret returns from it. -/
  | ret (h : i = .eret) (hs : s.epcSet = true ∨ s.cfg.epcUnset = .resetValue) : ExecEffect i s s.returnFromException
  /-- The instruction is held on a FIFO: nothing changes. -/
  | hold (hs : i.storeRange s = none) : ExecEffect i s s

theorem nextPc_aligned (h : s.pc.toNat % 4 = 0) : s.nextPc.toNat % 4 = 0 := by
  simp only [State.nextPc, BitVec.toNat_add]; simp; omega

theorem branchTarget_aligned (imm : Imm16) (h : s.pc.toNat % 4 = 0) : (s.branchTarget imm).toNat % 4 = 0 := by
  have := nextPc_aligned s h
  simp only [State.branchTarget, BitVec.toNat_add, BitVec.toNat_shiftLeft, Nat.shiftLeft_eq]
  omega

theorem jumpTarget_aligned (target : Target) : (s.jumpTarget target).toNat % 4 = 0 := by
  simp only [State.jumpTarget, BitVec.toNat_append]
  simp [Nat.shiftLeft_eq]

/-- Everything an instruction can do if it completes. -/
theorem exec_effect (i : Instr) (s t : State) (h : exec i s = .next t) : ExecEffect i s t := by
  have result {r : Reg} {v : Word} (hd : i.destination = some r) (hs : i.storeRange s = none)
      (e : Host.Outcome.next (s.writeBack r v) = (.next t : Result)) : ExecEffect i s t := by
    cases e; exact .result r v hd hs
  have branch {c : Bool} {imm : Imm16} (hs : i.storeRange s = none) (e : s.branchIf c imm = .next t) : ExecEffect i s t := by
    unfold State.branchIf at e
    cases e
    refine .jump _ (fun hp => ?_) hs
    split
    · exact branchTarget_aligned s imm hp
    · exact nextPc_aligned s hp
  have amo {rd rs rt : Reg} {op : Word → Word → Word} (hd : i.destination = some rd)
      (hs : i.storeRange s = some (s.paddr (s.readReg rs), 4)) (e : s.fetchAndOp rd rs rt op = .next t) : ExecEffect i s t := by
    obtain ⟨ha, rfl⟩ := (fetchAndOp_eq_next ..).mp e
    exact .atomic _ _ _ _ hd hs ha
  cases i with
  | mfc0 rt rd =>
    rcases (finish_eq_next ..).mp h with ⟨⟨v, u⟩, hr, rfl⟩ | ⟨-, rfl⟩
    · rcases cp0Read_eq_done hr with ⟨-, rest, hq, rfl⟩ | ⟨rfl, -⟩
      · exact .dequeue rt v rest rfl hq rfl
      · exact .result rt v rfl rfl
    · exact .hold rfl
  | mtc0 rt rd =>
    rcases (finish_eq_next ..).mp h with ⟨u, hr, rfl⟩ | ⟨-, rfl⟩
    · rcases cp0Write_eq_done hr with ⟨-, hq, rfl⟩ | ⟨-, rfl⟩
      · exact .enqueue rt hq rfl
      · exact .stats rt rfl
    · exact .hold rfl
  | lw rt rs imm =>
    obtain ⟨v, -, rfl⟩ := (complete_eq_next ..).mp h; exact .result _ _ rfl rfl
  | lh rt rs imm =>
    obtain ⟨v, -, rfl⟩ := (complete_eq_next ..).mp h; exact .result _ _ rfl rfl
  | lhu rt rs imm =>
    obtain ⟨v, -, rfl⟩ := (complete_eq_next ..).mp h; exact .result _ _ rfl rfl
  | sw rt rs imm =>
    obtain ⟨v, hv, rfl⟩ := (complete_eq_next ..).mp h
    obtain ⟨ha, rfl⟩ := (storeWord_eq_ok ..).mp hv
    exact .store _ _ rfl ha (.inr (.inr rfl))
  | sh rt rs imm =>
    obtain ⟨v, hv, rfl⟩ := (complete_eq_next ..).mp h
    obtain ⟨ha, rfl⟩ := (storeHalf_eq_ok ..).mp hv
    exact .store _ _ rfl ha (.inr (.inl rfl))
  | sb rt rs imm =>
    cases h; exact .store (s.effAddr rs imm) _ rfl (Nat.mod_one _) (.inl rfl)
  | j target => cases h; exact .jump _ (fun _ => jumpTarget_aligned s target) rfl
  | jal target => cases h; exact .link _ _ _ rfl (fun _ => jumpTarget_aligned s target) rfl
  | jr rs =>
    change (if aligned (s.readReg rs) 4 = true then _ else _) = _ at h
    split at h
    · next ha => cases h; exact .jump _ (fun _ => (aligned_iff ..).mp ha) rfl
    · cases h
  | jalr rd rs =>
    change (if rd = rs then _ else if aligned (s.readReg rs) 4 = true then _ else _) = _ at h
    split at h
    · cases h
    · split at h
      · next ha => cases h; exact .link _ _ _ rfl (fun _ => (aligned_iff ..).mp ha) rfl
      · cases h
  | beq | bne | bgtz | bltz | bgez | blez => exact branch rfl h
  | amoAdd | amoAnd | amoOr => exact amo rfl rfl h
  | sync => cases h; exact .jump _ (nextPc_aligned s) rfl
  | syscall => cases h; exact .trap rfl
  | eret =>
    change (if s.epcReadable = true then _ else _) = _ at h
    split at h
    · next he => cases h; exact .ret rfl ((epcReadable_iff s).mp he)
    · cases h
  | _ => exact result rfl rfl h

end Sys2Proof.Machine
end

