-- ==== Sys2Proof/Laws/Image.lean ====
section
/-! SUPPORT. What memory holds once an image is loaded, and the fields of the machine after reset with an image. -/

namespace Sys2Proof.Machine

/-! ## Loading -/

theorem image_wf_iff (image : Image) (n : Nat) :
    image.wf n = true ↔ (image.map (·.1)).Nodup ∧ ∀ c ∈ image, c.1 < 2 ^ n := by
  simp [Image.wf]

/-- Loading keeps the addresses strictly rising. -/
theorem wf_load (image : Image) (m : Memory) (h : m.wf) : (m.load image).wf := by
  induction image generalizing m with
  | nil => exact h
  | cons c image ih => exact ih _ (wf_write m c.1 c.2 h)

/-- Every byte listed after loading was listed before or is one of the image. -/
theorem mem_load (image : Image) (m : Memory) (e : Host.Cell) (h : e ∈ m.load image) : e ∈ m ∨ e ∈ image := by
  induction image generalizing m with
  | nil => exact .inl h
  | cons c image ih =>
    rcases ih _ h with h | h
    · rcases mem_write _ _ _ _ h with rfl | h
      · exact .inr List.mem_cons_self
      · exact .inl h
    · exact .inr (List.mem_cons_of_mem _ h)

/-- Loading leaves the bytes outside the image alone (R263). -/
theorem byte?_load_outside (image : Image) (m : Memory) (a : Nat) (h : a ∉ image.map (·.1)) :
    (m.load image).byte? a = m.byte? a := by
  induction image generalizing m with
  | nil => rfl
  | cons c image ih =>
    simp only [List.map_cons, List.mem_cons, not_or] at h
    rw [Memory.load, ih _ h.2, byte?_write, if_neg h.1]

/-- Loading places every byte of the image (R263). -/
theorem byte?_load_inside (image : Image) (m : Memory) (hn : (image.map (·.1)).Nodup) (e : Host.Cell) (h : e ∈ image) :
    (m.load image).byte? e.1 = some e.2 := by
  induction image generalizing m with
  | nil => cases h
  | cons c image ih =>
    obtain ⟨hc, hn⟩ := List.nodup_cons.mp hn
    rcases List.mem_cons.mp h with rfl | h
    · rw [Memory.load, byte?_load_outside _ _ _ hc, byte?_write, if_pos rfl]
    · exact ih _ hn h

/-! ## Images of bytes and words -/

/-- Loading bytes from an address up is storing them there. -/
theorem load_cellsFrom (bs : List Byte) (m : Memory) (p : Nat) : m.load (cellsFrom p bs) = m.writeBytes p bs := by
  induction bs generalizing m p with
  | nil => rfl
  | cons b bs ih => exact ih _ _

theorem load_append (i j : Image) (m : Memory) : m.load (i ++ j) = (m.load i).load j := by
  induction i generalizing m with
  | nil => rfl
  | cons c i ih => exact ih _

/-- Every address of an image of words lies in them. -/
theorem mem_cellsFrom (bs : List Byte) (p a : Nat) : a ∈ (cellsFrom p bs).map (·.1) ↔ p ≤ a ∧ a < p + bs.length := by
  induction bs generalizing p with
  | nil => simp only [cellsFrom, List.map_nil, List.not_mem_nil, List.length_nil, false_iff]; omega
  | cons b bs ih => simp only [cellsFrom, List.map_cons, List.mem_cons, ih, List.length_cons]; omega

theorem mem_imageOfWords (ws : List Word) (p a : Nat) :
    a ∈ (imageOfWords p ws).map (·.1) ↔ p ≤ a ∧ a < p + 4 * ws.length := by
  induction ws generalizing p with
  | nil => simp only [imageOfWords, List.map_nil, List.not_mem_nil, List.length_nil, false_iff]; omega
  | cons w ws ih =>
    simp only [imageOfWords, List.map_append, List.mem_append, mem_cellsFrom, ih, List.length_cons]
    have : (bytesOfWord w).length = 4 := rfl
    omega

/-- The first word of an image of words is read back where it was placed (R263, spec/20_memory.md R60). -/
theorem word_load_imageOfWords (m : Memory) (p : Nat) (w : Word) (ws : List Word) :
    (m.load (imageOfWords p (w :: ws))).word p = w := by
  rw [imageOfWords, load_append, load_cellsFrom]
  have outside (a : Nat) (h : a < p + 4) : ((m.writeBytes p (bytesOfWord w)).load (imageOfWords (p + 4) ws)).byte a
      = (m.writeBytes p (bytesOfWord w)).byte a := by
    unfold Memory.byte
    rw [byte?_load_outside _ _ _ (by rw [mem_imageOfWords]; omega)]
  simp only [Memory.word]
  rw [outside p (by omega), outside (p + 1) (by omega), outside (p + 2) (by omega), outside (p + 3) (by omega)]
  exact word_writeBytes m p w

/-! ## The machine after reset with an image -/

variable (p : Config.Params) (numcores coreid : Word) (image : Image)

/-- `State.reset` is the reset of the machine that entries 2, 5, 6 and 33 name, with nothing loaded. -/
theorem resetWith_nothing : State.resetWith Config.Params.atReset 1 0 [] = State.reset := rfl

@[simp] theorem resetWith_regs : (State.resetWith p numcores coreid image).regs = State.reset.regs := rfl
@[simp] theorem resetWith_pc : (State.resetWith p numcores coreid image).pc = 0x00001000 := rfl
@[simp] theorem resetWith_epc : (State.resetWith p numcores coreid image).epc = State.reset.epc := rfl
@[simp] theorem resetWith_epcSet : (State.resetWith p numcores coreid image).epcSet = false := rfl
@[simp] theorem resetWith_mode : (State.resetWith p numcores coreid image).mode = .supervisor := rfl
@[simp] theorem resetWith_statsEn : (State.resetWith p numcores coreid image).statsEn = State.reset.statsEn := rfl
@[simp] theorem resetWith_numcores : (State.resetWith p numcores coreid image).numcores = numcores := rfl
@[simp] theorem resetWith_coreid : (State.resetWith p numcores coreid image).coreid = coreid := rfl
@[simp] theorem resetWith_mngr2proc : (State.resetWith p numcores coreid image).mngr2proc = [] := rfl
@[simp] theorem resetWith_proc2mngr : (State.resetWith p numcores coreid image).proc2mngr = [] := rfl
@[simp] theorem resetWith_mem : (State.resetWith p numcores coreid image).mem = Memory.load [] image := rfl
@[simp] theorem resetWith_modified : (State.resetWith p numcores coreid image).modified = [] := rfl
@[simp] theorem resetWith_cfg : (State.resetWith p numcores coreid image).cfg = p := rfl
@[simp] theorem resetWith_agenda : (State.resetWith p numcores coreid image).agenda = [] := rfl
@[simp] theorem resetWith_received : (State.resetWith p numcores coreid image).received = [] := rfl

end Sys2Proof.Machine
end

