-- ==== Sys2Proof/Laws/PerInstr.lean ====
section
/-! SUPPORT. Per instruction: the encoder's word is an instruction word of the table's row of the same name and version
(spec/30_encoding.md R88). -/

namespace Sys2Proof.Laws.EncodeFitsRow

/-- Some row of the table has the instruction's mnemonic and version and takes in its encoded word. -/
def Statement (i : Instr) : Prop :=
  ∃ row ∈ opcodeRows, row.mnemonic = i.mnemonic ∧ row.since = i.since ∧ row.isRowOf (encode i) = true

/-- A word of six fields fits a row if each field does. -/
theorem rType_fits (row : OpcodeRow) {op o o' : BitVec 6} {rs rt rd sa a b c d a' b' c' d' : BitVec 5} {func f f' : BitVec 6}
    (hm : row.mask = rType o a b c d f) (hp : row.pattern = rType o' a' b' c' d' f')
    (h : (op &&& o = o' ∧ rs &&& a = a' ∧ rt &&& b = b') ∧ rd &&& c = c' ∧ sa &&& d = d' ∧ func &&& f = f') :
    row.isRowOf (rType op rs rt rd sa func) = true := by
  obtain ⟨⟨rfl, rfl, rfl⟩, rfl, rfl, rfl⟩ := h
  simp [OpcodeRow.isRowOf, hm, hp, rType_and]

/-- A word of four fields fits a row if each field does. -/
theorem iType_fits (row : OpcodeRow) {op o o' : BitVec 6} {rs rt a b a' b' : BitVec 5} {imm n n' : Imm16}
    (hm : row.mask = iType o a b n) (hp : row.pattern = iType o' a' b' n')
    (h : (op &&& o = o' ∧ rs &&& a = a') ∧ rt &&& b = b' ∧ imm &&& n = n') :
    row.isRowOf (iType op rs rt imm) = true := by
  obtain ⟨⟨rfl, rfl⟩, rfl, rfl⟩ := h
  simp [OpcodeRow.isRowOf, hm, hp, iType_and]

/-- A word of two fields fits a row if each field does. -/
theorem jType_fits (row : OpcodeRow) {op o o' : BitVec 6} {target n n' : Target}
    (hm : row.mask = jType o n) (hp : row.pattern = jType o' n') (h : op &&& o = o' ∧ target &&& n = n') :
    row.isRowOf (jType op target) = true := by
  obtain ⟨rfl, rfl⟩ := h
  simp [OpcodeRow.isRowOf, hm, hp, jType_and]

theorem mfc0 (rt : Reg) (rd : CpReg) : Statement (.mfc0 rt rd) :=
  ⟨⟨"mfc0", 0x40000000, 0xFFE007FF, .v1⟩, by simp [opcodeRows], rfl, rfl,
    rType_fits _ (o := 0x3F#6) (o' := 0x10#6) (a := 0x1F#5) (a' := 0x0#5) (b := 0x0#5) (b' := 0x0#5) (c := 0x0#5) (c' := 0x0#5) (d := 0x1F#5) (d' := 0x0#5) (f := 0x3F#6) (f' := 0x0#6)
      (by decide) (by decide) (by simp)⟩

theorem mtc0 (rt : Reg) (rd : CpReg) : Statement (.mtc0 rt rd) :=
  ⟨⟨"mtc0", 0x40800000, 0xFFE007FF, .v1⟩, by simp [opcodeRows], rfl, rfl,
    rType_fits _ (o := 0x3F#6) (o' := 0x10#6) (a := 0x1F#5) (a' := 0x4#5) (b := 0x0#5) (b' := 0x0#5) (c := 0x0#5) (c' := 0x0#5) (d := 0x1F#5) (d' := 0x0#5) (f := 0x3F#6) (f' := 0x0#6)
      (by decide) (by decide) (by simp)⟩

theorem addu (rd rs rt : Reg) : Statement (.addu rd rs rt) :=
  ⟨⟨"addu", 0x00000021, 0xFC0007FF, .v1⟩, by simp [opcodeRows], rfl, rfl,
    rType_fits _ (o := 0x3F#6) (o' := 0x0#6) (a := 0x0#5) (a' := 0x0#5) (b := 0x0#5) (b' := 0x0#5) (c := 0x0#5) (c' := 0x0#5) (d := 0x1F#5) (d' := 0x0#5) (f := 0x3F#6) (f' := 0x21#6)
      (by decide) (by decide) (by simp)⟩

theorem subu (rd rs rt : Reg) : Statement (.subu rd rs rt) :=
  ⟨⟨"subu", 0x00000023, 0xFC0007FF, .v1⟩, by simp [opcodeRows], rfl, rfl,
    rType_fits _ (o := 0x3F#6) (o' := 0x0#6) (a := 0x0#5) (a' := 0x0#5) (b := 0x0#5) (b' := 0x0#5) (c := 0x0#5) (c' := 0x0#5) (d := 0x1F#5) (d' := 0x0#5) (f := 0x3F#6) (f' := 0x23#6)
      (by decide) (by decide) (by simp)⟩

theorem and (rd rs rt : Reg) : Statement (.and rd rs rt) :=
  ⟨⟨"and", 0x00000024, 0xFC0007FF, .v1⟩, by simp [opcodeRows], rfl, rfl,
    rType_fits _ (o := 0x3F#6) (o' := 0x0#6) (a := 0x0#5) (a' := 0x0#5) (b := 0x0#5) (b' := 0x0#5) (c := 0x0#5) (c' := 0x0#5) (d := 0x1F#5) (d' := 0x0#5) (f := 0x3F#6) (f' := 0x24#6)
      (by decide) (by decide) (by simp)⟩

theorem or (rd rs rt : Reg) : Statement (.or rd rs rt) :=
  ⟨⟨"or", 0x00000025, 0xFC0007FF, .v1⟩, by simp [opcodeRows], rfl, rfl,
    rType_fits _ (o := 0x3F#6) (o' := 0x0#6) (a := 0x0#5) (a' := 0x0#5) (b := 0x0#5) (b' := 0x0#5) (c := 0x0#5) (c' := 0x0#5) (d := 0x1F#5) (d' := 0x0#5) (f := 0x3F#6) (f' := 0x25#6)
      (by decide) (by decide) (by simp)⟩

theorem xor (rd rs rt : Reg) : Statement (.xor rd rs rt) :=
  ⟨⟨"xor", 0x00000026, 0xFC0007FF, .v2⟩, by simp [opcodeRows], rfl, rfl,
    rType_fits _ (o := 0x3F#6) (o' := 0x0#6) (a := 0x0#5) (a' := 0x0#5) (b := 0x0#5) (b' := 0x0#5) (c := 0x0#5) (c' := 0x0#5) (d := 0x1F#5) (d' := 0x0#5) (f := 0x3F#6) (f' := 0x26#6)
      (by decide) (by decide) (by simp)⟩

theorem nor (rd rs rt : Reg) : Statement (.nor rd rs rt) :=
  ⟨⟨"nor", 0x00000027, 0xFC0007FF, .v2⟩, by simp [opcodeRows], rfl, rfl,
    rType_fits _ (o := 0x3F#6) (o' := 0x0#6) (a := 0x0#5) (a' := 0x0#5) (b := 0x0#5) (b' := 0x0#5) (c := 0x0#5) (c' := 0x0#5) (d := 0x1F#5) (d' := 0x0#5) (f := 0x3F#6) (f' := 0x27#6)
      (by decide) (by decide) (by simp)⟩

theorem slt (rd rs rt : Reg) : Statement (.slt rd rs rt) :=
  ⟨⟨"slt", 0x0000002A, 0xFC0007FF, .v1⟩, by simp [opcodeRows], rfl, rfl,
    rType_fits _ (o := 0x3F#6) (o' := 0x0#6) (a := 0x0#5) (a' := 0x0#5) (b := 0x0#5) (b' := 0x0#5) (c := 0x0#5) (c' := 0x0#5) (d := 0x1F#5) (d' := 0x0#5) (f := 0x3F#6) (f' := 0x2A#6)
      (by decide) (by decide) (by simp)⟩

theorem sltu (rd rs rt : Reg) : Statement (.sltu rd rs rt) :=
  ⟨⟨"sltu", 0x0000002B, 0xFC0007FF, .v2⟩, by simp [opcodeRows], rfl, rfl,
    rType_fits _ (o := 0x3F#6) (o' := 0x0#6) (a := 0x0#5) (a' := 0x0#5) (b := 0x0#5) (b' := 0x0#5) (c := 0x0#5) (c' := 0x0#5) (d := 0x1F#5) (d' := 0x0#5) (f := 0x3F#6) (f' := 0x2B#6)
      (by decide) (by decide) (by simp)⟩

theorem srav (rd rt rs : Reg) : Statement (.srav rd rt rs) :=
  ⟨⟨"srav", 0x00000007, 0xFC0007FF, .v2⟩, by simp [opcodeRows], rfl, rfl,
    rType_fits _ (o := 0x3F#6) (o' := 0x0#6) (a := 0x0#5) (a' := 0x0#5) (b := 0x0#5) (b' := 0x0#5) (c := 0x0#5) (c' := 0x0#5) (d := 0x1F#5) (d' := 0x0#5) (f := 0x3F#6) (f' := 0x7#6)
      (by decide) (by decide) (by simp)⟩

theorem srlv (rd rt rs : Reg) : Statement (.srlv rd rt rs) :=
  ⟨⟨"srlv", 0x00000006, 0xFC0007FF, .v2⟩, by simp [opcodeRows], rfl, rfl,
    rType_fits _ (o := 0x3F#6) (o' := 0x0#6) (a := 0x0#5) (a' := 0x0#5) (b := 0x0#5) (b' := 0x0#5) (c := 0x0#5) (c' := 0x0#5) (d := 0x1F#5) (d' := 0x0#5) (f := 0x3F#6) (f' := 0x6#6)
      (by decide) (by decide) (by simp)⟩

theorem sllv (rd rt rs : Reg) : Statement (.sllv rd rt rs) :=
  ⟨⟨"sllv", 0x00000004, 0xFC0007FF, .v2⟩, by simp [opcodeRows], rfl, rfl,
    rType_fits _ (o := 0x3F#6) (o' := 0x0#6) (a := 0x0#5) (a' := 0x0#5) (b := 0x0#5) (b' := 0x0#5) (c := 0x0#5) (c' := 0x0#5) (d := 0x1F#5) (d' := 0x0#5) (f := 0x3F#6) (f' := 0x4#6)
      (by decide) (by decide) (by simp)⟩

theorem mul (rd rs rt : Reg) : Statement (.mul rd rs rt) :=
  ⟨⟨"mul", 0x70000002, 0xFC0007FF, .v1⟩, by simp [opcodeRows], rfl, rfl,
    rType_fits _ (o := 0x3F#6) (o' := 0x1C#6) (a := 0x0#5) (a' := 0x0#5) (b := 0x0#5) (b' := 0x0#5) (c := 0x0#5) (c' := 0x0#5) (d := 0x1F#5) (d' := 0x0#5) (f := 0x3F#6) (f' := 0x2#6)
      (by decide) (by decide) (by simp)⟩

theorem div (rd rs rt : Reg) : Statement (.div rd rs rt) :=
  ⟨⟨"div", 0x9C000005, 0xFC0007FF, .v2⟩, by simp [opcodeRows], rfl, rfl,
    rType_fits _ (o := 0x3F#6) (o' := 0x27#6) (a := 0x0#5) (a' := 0x0#5) (b := 0x0#5) (b' := 0x0#5) (c := 0x0#5) (c' := 0x0#5) (d := 0x1F#5) (d' := 0x0#5) (f := 0x3F#6) (f' := 0x5#6)
      (by decide) (by decide) (by simp)⟩

theorem divu (rd rs rt : Reg) : Statement (.divu rd rs rt) :=
  ⟨⟨"divu", 0x9C000007, 0xFC0007FF, .v2⟩, by simp [opcodeRows], rfl, rfl,
    rType_fits _ (o := 0x3F#6) (o' := 0x27#6) (a := 0x0#5) (a' := 0x0#5) (b := 0x0#5) (b' := 0x0#5) (c := 0x0#5) (c' := 0x0#5) (d := 0x1F#5) (d' := 0x0#5) (f := 0x3F#6) (f' := 0x7#6)
      (by decide) (by decide) (by simp)⟩

theorem rem (rd rs rt : Reg) : Statement (.rem rd rs rt) :=
  ⟨⟨"rem", 0x9C000006, 0xFC0007FF, .v2⟩, by simp [opcodeRows], rfl, rfl,
    rType_fits _ (o := 0x3F#6) (o' := 0x27#6) (a := 0x0#5) (a' := 0x0#5) (b := 0x0#5) (b' := 0x0#5) (c := 0x0#5) (c' := 0x0#5) (d := 0x1F#5) (d' := 0x0#5) (f := 0x3F#6) (f' := 0x6#6)
      (by decide) (by decide) (by simp)⟩

theorem remu (rd rs rt : Reg) : Statement (.remu rd rs rt) :=
  ⟨⟨"remu", 0x9C000008, 0xFC0007FF, .v2⟩, by simp [opcodeRows], rfl, rfl,
    rType_fits _ (o := 0x3F#6) (o' := 0x27#6) (a := 0x0#5) (a' := 0x0#5) (b := 0x0#5) (b' := 0x0#5) (c := 0x0#5) (c' := 0x0#5) (d := 0x1F#5) (d' := 0x0#5) (f := 0x3F#6) (f' := 0x8#6)
      (by decide) (by decide) (by simp)⟩

theorem addiu (rt rs : Reg) (imm : Imm16) : Statement (.addiu rt rs imm) :=
  ⟨⟨"addiu", 0x24000000, 0xFC000000, .v1⟩, by simp [opcodeRows], rfl, rfl,
    iType_fits _ (o := 0x3F#6) (o' := 0x9#6) (a := 0x0#5) (a' := 0x0#5) (b := 0x0#5) (b' := 0x0#5) (n := 0x0#16) (n' := 0x0#16)
      (by decide) (by decide) (by simp)⟩

theorem lui (rt : Reg) (imm : Imm16) : Statement (.lui rt imm) :=
  ⟨⟨"lui", 0x3C000000, 0xFFE00000, .v1⟩, by simp [opcodeRows], rfl, rfl,
    iType_fits _ (o := 0x3F#6) (o' := 0xF#6) (a := 0x1F#5) (a' := 0x0#5) (b := 0x0#5) (b' := 0x0#5) (n := 0x0#16) (n' := 0x0#16)
      (by decide) (by decide) (by simp)⟩

theorem ori (rt rs : Reg) (imm : Imm16) : Statement (.ori rt rs imm) :=
  ⟨⟨"ori", 0x34000000, 0xFC000000, .v1⟩, by simp [opcodeRows], rfl, rfl,
    iType_fits _ (o := 0x3F#6) (o' := 0xD#6) (a := 0x0#5) (a' := 0x0#5) (b := 0x0#5) (b' := 0x0#5) (n := 0x0#16) (n' := 0x0#16)
      (by decide) (by decide) (by simp)⟩

theorem andi (rt rs : Reg) (imm : Imm16) : Statement (.andi rt rs imm) :=
  ⟨⟨"andi", 0x30000000, 0xFC000000, .v2⟩, by simp [opcodeRows], rfl, rfl,
    iType_fits _ (o := 0x3F#6) (o' := 0xC#6) (a := 0x0#5) (a' := 0x0#5) (b := 0x0#5) (b' := 0x0#5) (n := 0x0#16) (n' := 0x0#16)
      (by decide) (by decide) (by simp)⟩

theorem xori (rt rs : Reg) (imm : Imm16) : Statement (.xori rt rs imm) :=
  ⟨⟨"xori", 0x38000000, 0xFC000000, .v2⟩, by simp [opcodeRows], rfl, rfl,
    iType_fits _ (o := 0x3F#6) (o' := 0xE#6) (a := 0x0#5) (a' := 0x0#5) (b := 0x0#5) (b' := 0x0#5) (n := 0x0#16) (n' := 0x0#16)
      (by decide) (by decide) (by simp)⟩

theorem slti (rt rs : Reg) (imm : Imm16) : Statement (.slti rt rs imm) :=
  ⟨⟨"slti", 0x28000000, 0xFC000000, .v2⟩, by simp [opcodeRows], rfl, rfl,
    iType_fits _ (o := 0x3F#6) (o' := 0xA#6) (a := 0x0#5) (a' := 0x0#5) (b := 0x0#5) (b' := 0x0#5) (n := 0x0#16) (n' := 0x0#16)
      (by decide) (by decide) (by simp)⟩

theorem sltiu (rt rs : Reg) (imm : Imm16) : Statement (.sltiu rt rs imm) :=
  ⟨⟨"sltiu", 0x2C000000, 0xFC000000, .v2⟩, by simp [opcodeRows], rfl, rfl,
    iType_fits _ (o := 0x3F#6) (o' := 0xB#6) (a := 0x0#5) (a' := 0x0#5) (b := 0x0#5) (b' := 0x0#5) (n := 0x0#16) (n' := 0x0#16)
      (by decide) (by decide) (by simp)⟩

theorem sra (rd rt : Reg) (sa : Shamt) : Statement (.sra rd rt sa) :=
  ⟨⟨"sra", 0x00000003, 0xFFE0003F, .v1⟩, by simp [opcodeRows], rfl, rfl,
    rType_fits _ (o := 0x3F#6) (o' := 0x0#6) (a := 0x1F#5) (a' := 0x0#5) (b := 0x0#5) (b' := 0x0#5) (c := 0x0#5) (c' := 0x0#5) (d := 0x0#5) (d' := 0x0#5) (f := 0x3F#6) (f' := 0x3#6)
      (by decide) (by decide) (by simp)⟩

theorem srl (rd rt : Reg) (sa : Shamt) : Statement (.srl rd rt sa) :=
  ⟨⟨"srl", 0x00000002, 0xFFE0003F, .v2⟩, by simp [opcodeRows], rfl, rfl,
    rType_fits _ (o := 0x3F#6) (o' := 0x0#6) (a := 0x1F#5) (a' := 0x0#5) (b := 0x0#5) (b' := 0x0#5) (c := 0x0#5) (c' := 0x0#5) (d := 0x0#5) (d' := 0x0#5) (f := 0x3F#6) (f' := 0x2#6)
      (by decide) (by decide) (by simp)⟩

theorem sll (rd rt : Reg) (sa : Shamt) : Statement (.sll rd rt sa) :=
  ⟨⟨"sll", 0x00000000, 0xFFE0003F, .v1⟩, by simp [opcodeRows], rfl, rfl,
    rType_fits _ (o := 0x3F#6) (o' := 0x0#6) (a := 0x1F#5) (a' := 0x0#5) (b := 0x0#5) (b' := 0x0#5) (c := 0x0#5) (c' := 0x0#5) (d := 0x0#5) (d' := 0x0#5) (f := 0x3F#6) (f' := 0x0#6)
      (by decide) (by decide) (by simp)⟩

theorem lw (rt rs : Reg) (imm : Imm16) : Statement (.lw rt rs imm) :=
  ⟨⟨"lw", 0x8C000000, 0xFC000000, .v1⟩, by simp [opcodeRows], rfl, rfl,
    iType_fits _ (o := 0x3F#6) (o' := 0x23#6) (a := 0x0#5) (a' := 0x0#5) (b := 0x0#5) (b' := 0x0#5) (n := 0x0#16) (n' := 0x0#16)
      (by decide) (by decide) (by simp)⟩

theorem lh (rt rs : Reg) (imm : Imm16) : Statement (.lh rt rs imm) :=
  ⟨⟨"lh", 0x84000000, 0xFC000000, .v2⟩, by simp [opcodeRows], rfl, rfl,
    iType_fits _ (o := 0x3F#6) (o' := 0x21#6) (a := 0x0#5) (a' := 0x0#5) (b := 0x0#5) (b' := 0x0#5) (n := 0x0#16) (n' := 0x0#16)
      (by decide) (by decide) (by simp)⟩

theorem lhu (rt rs : Reg) (imm : Imm16) : Statement (.lhu rt rs imm) :=
  ⟨⟨"lhu", 0x94000000, 0xFC000000, .v2⟩, by simp [opcodeRows], rfl, rfl,
    iType_fits _ (o := 0x3F#6) (o' := 0x25#6) (a := 0x0#5) (a' := 0x0#5) (b := 0x0#5) (b' := 0x0#5) (n := 0x0#16) (n' := 0x0#16)
      (by decide) (by decide) (by simp)⟩

theorem lb (rt rs : Reg) (imm : Imm16) : Statement (.lb rt rs imm) :=
  ⟨⟨"lb", 0x80000000, 0xFC000000, .v2⟩, by simp [opcodeRows], rfl, rfl,
    iType_fits _ (o := 0x3F#6) (o' := 0x20#6) (a := 0x0#5) (a' := 0x0#5) (b := 0x0#5) (b' := 0x0#5) (n := 0x0#16) (n' := 0x0#16)
      (by decide) (by decide) (by simp)⟩

theorem lbu (rt rs : Reg) (imm : Imm16) : Statement (.lbu rt rs imm) :=
  ⟨⟨"lbu", 0x90000000, 0xFC000000, .v2⟩, by simp [opcodeRows], rfl, rfl,
    iType_fits _ (o := 0x3F#6) (o' := 0x24#6) (a := 0x0#5) (a' := 0x0#5) (b := 0x0#5) (b' := 0x0#5) (n := 0x0#16) (n' := 0x0#16)
      (by decide) (by decide) (by simp)⟩

theorem sw (rt rs : Reg) (imm : Imm16) : Statement (.sw rt rs imm) :=
  ⟨⟨"sw", 0xAC000000, 0xFC000000, .v1⟩, by simp [opcodeRows], rfl, rfl,
    iType_fits _ (o := 0x3F#6) (o' := 0x2B#6) (a := 0x0#5) (a' := 0x0#5) (b := 0x0#5) (b' := 0x0#5) (n := 0x0#16) (n' := 0x0#16)
      (by decide) (by decide) (by simp)⟩

theorem sh (rt rs : Reg) (imm : Imm16) : Statement (.sh rt rs imm) :=
  ⟨⟨"sh", 0xA4000000, 0xFC000000, .v2⟩, by simp [opcodeRows], rfl, rfl,
    iType_fits _ (o := 0x3F#6) (o' := 0x29#6) (a := 0x0#5) (a' := 0x0#5) (b := 0x0#5) (b' := 0x0#5) (n := 0x0#16) (n' := 0x0#16)
      (by decide) (by decide) (by simp)⟩

theorem sb (rt rs : Reg) (imm : Imm16) : Statement (.sb rt rs imm) :=
  ⟨⟨"sb", 0xA0000000, 0xFC000000, .v2⟩, by simp [opcodeRows], rfl, rfl,
    iType_fits _ (o := 0x3F#6) (o' := 0x28#6) (a := 0x0#5) (a' := 0x0#5) (b := 0x0#5) (b' := 0x0#5) (n := 0x0#16) (n' := 0x0#16)
      (by decide) (by decide) (by simp)⟩

theorem j (target : Target) : Statement (.j target) :=
  ⟨⟨"j", 0x08000000, 0xFC000000, .v1⟩, by simp [opcodeRows], rfl, rfl,
    jType_fits _ (o := 0x3F#6) (o' := 0x2#6) (n := 0x0#26) (n' := 0x0#26)
      (by decide) (by decide) (by simp)⟩

theorem jr (rs : Reg) : Statement (.jr rs) :=
  ⟨⟨"jr", 0x00000008, 0xFC1FFFFF, .v1⟩, by simp [opcodeRows], rfl, rfl,
    rType_fits _ (o := 0x3F#6) (o' := 0x0#6) (a := 0x0#5) (a' := 0x0#5) (b := 0x1F#5) (b' := 0x0#5) (c := 0x1F#5) (c' := 0x0#5) (d := 0x1F#5) (d' := 0x0#5) (f := 0x3F#6) (f' := 0x8#6)
      (by decide) (by decide) (by simp)⟩

theorem jalr (rd rs : Reg) : Statement (.jalr rd rs) :=
  ⟨⟨"jalr", 0x00000009, 0xFC1F07FF, .v1⟩, by simp [opcodeRows], rfl, rfl,
    rType_fits _ (o := 0x3F#6) (o' := 0x0#6) (a := 0x0#5) (a' := 0x0#5) (b := 0x1F#5) (b' := 0x0#5) (c := 0x0#5) (c' := 0x0#5) (d := 0x1F#5) (d' := 0x0#5) (f := 0x3F#6) (f' := 0x9#6)
      (by decide) (by decide) (by simp)⟩

theorem jal (target : Target) : Statement (.jal target) :=
  ⟨⟨"jal", 0x0C000000, 0xFC000000, .v1⟩, by simp [opcodeRows], rfl, rfl,
    jType_fits _ (o := 0x3F#6) (o' := 0x3#6) (n := 0x0#26) (n' := 0x0#26)
      (by decide) (by decide) (by simp)⟩

theorem beq (rs rt : Reg) (imm : Imm16) : Statement (.beq rs rt imm) :=
  ⟨⟨"beq", 0x10000000, 0xFC000000, .v1⟩, by simp [opcodeRows], rfl, rfl,
    iType_fits _ (o := 0x3F#6) (o' := 0x4#6) (a := 0x0#5) (a' := 0x0#5) (b := 0x0#5) (b' := 0x0#5) (n := 0x0#16) (n' := 0x0#16)
      (by decide) (by decide) (by simp)⟩

theorem bne (rs rt : Reg) (imm : Imm16) : Statement (.bne rs rt imm) :=
  ⟨⟨"bne", 0x14000000, 0xFC000000, .v1⟩, by simp [opcodeRows], rfl, rfl,
    iType_fits _ (o := 0x3F#6) (o' := 0x5#6) (a := 0x0#5) (a' := 0x0#5) (b := 0x0#5) (b' := 0x0#5) (n := 0x0#16) (n' := 0x0#16)
      (by decide) (by decide) (by simp)⟩

theorem bgtz (rs : Reg) (imm : Imm16) : Statement (.bgtz rs imm) :=
  ⟨⟨"bgtz", 0x1C000000, 0xFC1F0000, .v2⟩, by simp [opcodeRows], rfl, rfl,
    iType_fits _ (o := 0x3F#6) (o' := 0x7#6) (a := 0x0#5) (a' := 0x0#5) (b := 0x1F#5) (b' := 0x0#5) (n := 0x0#16) (n' := 0x0#16)
      (by decide) (by decide) (by simp)⟩

theorem bltz (rs : Reg) (imm : Imm16) : Statement (.bltz rs imm) :=
  ⟨⟨"bltz", 0x04000000, 0xFC1F0000, .v2⟩, by simp [opcodeRows], rfl, rfl,
    iType_fits _ (o := 0x3F#6) (o' := 0x1#6) (a := 0x0#5) (a' := 0x0#5) (b := 0x1F#5) (b' := 0x0#5) (n := 0x0#16) (n' := 0x0#16)
      (by decide) (by decide) (by simp)⟩

theorem bgez (rs : Reg) (imm : Imm16) : Statement (.bgez rs imm) :=
  ⟨⟨"bgez", 0x04010000, 0xFC1F0000, .v2⟩, by simp [opcodeRows], rfl, rfl,
    iType_fits _ (o := 0x3F#6) (o' := 0x1#6) (a := 0x0#5) (a' := 0x0#5) (b := 0x1F#5) (b' := 0x1#5) (n := 0x0#16) (n' := 0x0#16)
      (by decide) (by decide) (by simp)⟩

theorem blez (rs : Reg) (imm : Imm16) : Statement (.blez rs imm) :=
  ⟨⟨"blez", 0x18000000, 0xFC1F0000, .v2⟩, by simp [opcodeRows], rfl, rfl,
    iType_fits _ (o := 0x3F#6) (o' := 0x6#6) (a := 0x0#5) (a' := 0x0#5) (b := 0x1F#5) (b' := 0x0#5) (n := 0x0#16) (n' := 0x0#16)
      (by decide) (by decide) (by simp)⟩

theorem amoAdd (rd rs rt : Reg) : Statement (.amoAdd rd rs rt) :=
  ⟨⟨"amo.add", 0x9C000002, 0xFC0007FF, .v3⟩, by simp [opcodeRows], rfl, rfl,
    rType_fits _ (o := 0x3F#6) (o' := 0x27#6) (a := 0x0#5) (a' := 0x0#5) (b := 0x0#5) (b' := 0x0#5) (c := 0x0#5) (c' := 0x0#5) (d := 0x1F#5) (d' := 0x0#5) (f := 0x3F#6) (f' := 0x2#6)
      (by decide) (by decide) (by simp)⟩

theorem amoAnd (rd rs rt : Reg) : Statement (.amoAnd rd rs rt) :=
  ⟨⟨"amo.and", 0x9C000003, 0xFC0007FF, .v3⟩, by simp [opcodeRows], rfl, rfl,
    rType_fits _ (o := 0x3F#6) (o' := 0x27#6) (a := 0x0#5) (a' := 0x0#5) (b := 0x0#5) (b' := 0x0#5) (c := 0x0#5) (c' := 0x0#5) (d := 0x1F#5) (d' := 0x0#5) (f := 0x3F#6) (f' := 0x3#6)
      (by decide) (by decide) (by simp)⟩

theorem amoOr (rd rs rt : Reg) : Statement (.amoOr rd rs rt) :=
  ⟨⟨"amo.or", 0x9C000004, 0xFC0007FF, .v3⟩, by simp [opcodeRows], rfl, rfl,
    rType_fits _ (o := 0x3F#6) (o' := 0x27#6) (a := 0x0#5) (a' := 0x0#5) (b := 0x0#5) (b' := 0x0#5) (c := 0x0#5) (c' := 0x0#5) (d := 0x1F#5) (d' := 0x0#5) (f := 0x3F#6) (f' := 0x4#6)
      (by decide) (by decide) (by simp)⟩

theorem sync : Statement (.sync) :=
  ⟨⟨"sync", 0x0000000F, 0xFFFFFFFF, .v3⟩, by simp [opcodeRows], rfl, rfl,
    rType_fits _ (o := 0x3F#6) (o' := 0x0#6) (a := 0x1F#5) (a' := 0x0#5) (b := 0x1F#5) (b' := 0x0#5) (c := 0x1F#5) (c' := 0x0#5) (d := 0x1F#5) (d' := 0x0#5) (f := 0x3F#6) (f' := 0xF#6)
      (by decide) (by decide) (by simp)⟩

theorem syscall : Statement (.syscall) :=
  ⟨⟨"syscall", 0x0000000C, 0xFFFFFFFF, .v4⟩, by simp [opcodeRows], rfl, rfl,
    rType_fits _ (o := 0x3F#6) (o' := 0x0#6) (a := 0x1F#5) (a' := 0x0#5) (b := 0x1F#5) (b' := 0x0#5) (c := 0x1F#5) (c' := 0x0#5) (d := 0x1F#5) (d' := 0x0#5) (f := 0x3F#6) (f' := 0xC#6)
      (by decide) (by decide) (by simp)⟩

theorem eret : Statement (.eret) :=
  ⟨⟨"eret", 0x00000018, 0xFFFFFFFF, .v4⟩, by simp [opcodeRows], rfl, rfl,
    rType_fits _ (o := 0x3F#6) (o' := 0x0#6) (a := 0x1F#5) (a' := 0x0#5) (b := 0x1F#5) (b' := 0x0#5) (c := 0x1F#5) (c' := 0x0#5) (d := 0x1F#5) (d' := 0x0#5) (f := 0x3F#6) (f' := 0x18#6)
      (by decide) (by decide) (by simp)⟩

end Sys2Proof.Laws.EncodeFitsRow
end

