-- ==== Sys2Proof/Laws/Step.lean ====
section
/-! SUPPORT. Everything one step can do. -/

namespace Sys2Proof.Machine

/-- The state in which the core takes its step: the agenda less the entry that gives the core this step. -/
theorem turn_cases (s : State) :
    (∃ m rest, s.agenda = m :: rest ∧ s.enabled m = true ∧ s.turn = .agent (State.perform { s with agenda := rest } m))
      ∨ ∃ u, (u = s ∨ ∃ rest, s.agenda = .core :: rest ∧ u = { s with agenda := rest }) ∧ s.turn = .core u := by
  unfold State.turn
  split
  · exact .inr ⟨s, .inl rfl, rfl⟩
  · next rest h => exact .inr ⟨_, .inr ⟨rest, h, rfl⟩, rfl⟩
  · next m rest _ h =>
    by_cases he : s.enabled m = true
    · exact .inl ⟨m, rest, h, he, if_pos he⟩
    · exact .inr ⟨s, .inl rfl, if_neg he⟩

theorem coreStep_eq_next (s t : State) : coreStep s = .next t ↔ ∃ i, s.fetchInstr = .ok i ∧ exec i s = .next t := by
  unfold coreStep
  cases s.fetchInstr <;> simp

/-- Where it is the core's turn the core takes its step, in the state given or in that state less the agenda's first entry. -/
theorem step_of_coreMovesNext {s : State} (h : CoreMovesNext s) :
    ∃ u, (u = s ∨ ∃ rest, s.agenda = .core :: rest ∧ u = { s with agenda := rest }) ∧ step s = coreStep u := by
  rcases h with h | ⟨rest, h⟩ | ⟨m, rest, h, hm, he⟩
  · exact ⟨s, .inl rfl, by simp [step, State.turn, h]⟩
  · exact ⟨{ s with agenda := rest }, .inr ⟨rest, h, rfl⟩, by simp [step, State.turn, h]⟩
  · refine ⟨s, .inl rfl, ?_⟩
    cases m <;> simp_all [step, State.turn]

/-- Where it is the core's turn, a fetch or decode that faults is the fault of the step. -/
theorem step_eq_fault_of_fetch {s : State} {f : Fault} (h : CoreMovesNext s) (hf : s.fetchInstr = .error f) :
    step s = .fault f := by
  obtain ⟨u, hu, hs⟩ := step_of_coreMovesNext h
  have he : u.fetchInstr = s.fetchInstr := by rcases hu with rfl | ⟨rest, -, rfl⟩ <;> rfl
  simp [hs, coreStep, he, hf]

/-- A step that answers a next state is an enabled move of another agent, or a completed instruction of the core. -/
theorem step_cases {s t : State} (h : step s = .next t) :
    (∃ m rest, s.agenda = m :: rest ∧ s.enabled m = true ∧ t = State.perform { s with agenda := rest } m)
      ∨ ∃ u i, (u = s ∨ ∃ rest, s.agenda = .core :: rest ∧ u = { s with agenda := rest })
          ∧ u.fetchInstr = .ok i ∧ exec i u = .next t := by
  rcases turn_cases s with ⟨m, rest, ha, he, ht⟩ | ⟨u, hu, ht⟩
  · unfold step at h
    rw [ht] at h
    cases h
    exact .inl ⟨m, rest, ha, he, rfl⟩
  · unfold step at h
    rw [ht] at h
    obtain ⟨i, hi, he⟩ := (coreStep_eq_next u t).mp h
    exact .inr ⟨u, i, hu, hi, he⟩

end Sys2Proof.Machine
end

