-- ==== Sys2Proof/Tests/Slice0.lean ====
section
/-! SUPPORT. Tests. Expected results are those of spec/95_test_vectors.md (its sections 1.2, 1.3, 2.1 to 2.10 and 3) or of the
rule named beside the test, never the model's own. Then, for each statement that has hypotheses, a state and operands that
meet them. -/

namespace Sys2Proof.Tests

open Sys2Proof.Machine

/-! ## Helpers -/

/-- The outcome is a next state with the property. -/
def nextHas (r : Result) (p : State → Bool) : Bool :=
  match r with
  | .next t => p t
  | _ => false

/-- The outcome is the fault. -/
def faultsWith (r : Result) (f : Fault) : Bool :=
  match r with
  | .fault g => f == g
  | _ => false

/-- A state after reset with some registers set. -/
def withRegs (rs : List (Reg × Word)) : State := rs.foldl (fun s r => s.setReg r.1 r.2) State.reset

/-- The machine of another version. -/
def ofVersion (v : Config.Version) (s : State) : State := { s with cfg := { s.cfg with version := v } }

/-- A machine that takes whole shift amounts. -/
def fullShift (s : State) : State := { s with cfg := { s.cfg with shiftAmount := .full } }

/-- A machine with FIFOs of two items. -/
def depthTwo (s : State) : State := { s with cfg := { s.cfg with fifoDepth := some 2 } }

/-- The same state on a machine where eret before any syscall faults, as the vectors of section 2.9 take it (R222, D35; entry 2). -/
def refusesUnsetEpc (s : State) : State := { s with cfg := { s.cfg with epcUnset := .refuse } }

/-- The eight bytes 78 56 34 12 81 80 FF 7F at 0x2000, which section 2.5 of the vectors reads. -/
def withData (s : State) : State := { s with mem := s.mem.writeBytes 0x2000 [0x78, 0x56, 0x34, 0x12, 0x81, 0x80, 0xFF, 0x7F] }

/-- Memory holds the bytes from the address up. -/
def holds (s : State) (p : Nat) (bs : List Byte) : Bool := (List.range bs.length).map (fun i => s.mem.byte (p + i)) == bs

/-- One step that runs the word. -/
def run (w : Nat) (s : State) : Result := step (s.withFetchWord 32 w)

theorem exists_next {r : Result} (h : nextHas r (fun _ => true) = true) : ∃ t, r = .next t := by
  cases r with
  | next t => exact ⟨t, rfl⟩
  | fault f => cases h
  | refused f => cases h

/-- The one next state of an outcome, where it has one. -/
theorem exists_next_with {r : Result} {p : State → Bool} (h : nextHas r p = true) : ∃ t, r = .next t ∧ p t = true := by
  cases r with
  | next t => exact ⟨t, rfl, h⟩
  | fault f => cases h
  | refused f => cases h

/-! ## WellFormed: an ill-formed term for each check -/

theorem test_wf_xor_is_not_v1 : Instr.wellFormed .v1 (.xor 3 1 2) = false := by decide
theorem test_wf_amoAdd_is_not_v2 : Instr.wellFormed .v2 (.amoAdd 3 1 2) = false := by decide
theorem test_wf_sync_is_not_v2 : Instr.wellFormed .v2 .sync = false := by decide
theorem test_wf_syscall_is_not_v3 : Instr.wellFormed .v3 .syscall = false := by decide
theorem test_wf_eret_is_not_v3 : Instr.wellFormed .v3 .eret = false := by decide
theorem test_wf_versions_are_cumulative : Instr.wellFormed .v4 (.addu 3 1 2) && Instr.wellFormed .v1 (.jalr 31 4) = true := by decide
theorem test_wf_paddrBits_of_12 : (Config.Params.mk .v4 12 .low5 none .refuse .refuse).wf = false := by decide
theorem test_wf_paddrBits_of_33 : (Config.Params.mk .v4 33 .low5 none .refuse .refuse).wf = false := by decide
theorem test_wf_fifo_of_depth_0 : (Config.Params.mk .v4 32 .low5 (some 0) .refuse .refuse).wf = false := by decide
theorem test_wf_smallest_machine : (Config.Params.mk .v1 13 .full (some 1) .refuse .refuse).wf = true := by decide

/-! ## Decoding: for each constructor a word written out bit by bit from its row of the table (fields rs = 9, rt = 18, rd = 27,
sa = 5, imm = 0xA5C3, target = 0x2A5C3E1), and the word of section 2.10, every operand field at its largest value -/

theorem test_decode_mfc0 : decodeTableWord 32 0b01000000000100101101100000000000 = some (.mfc0 18 27)
    ∧ decodeTableWord 32 0x401FF800 = some (.mfc0 31 31) := by decide
theorem test_decode_mtc0 : decodeTableWord 32 0b01000000100100101101100000000000 = some (.mtc0 18 27)
    ∧ decodeTableWord 32 0x409FF800 = some (.mtc0 31 31) := by decide
theorem test_decode_addu : decodeTableWord 32 0b00000001001100101101100000100001 = some (.addu 27 9 18)
    ∧ decodeTableWord 32 0x03FFF821 = some (.addu 31 31 31) := by decide
theorem test_decode_subu : decodeTableWord 32 0b00000001001100101101100000100011 = some (.subu 27 9 18)
    ∧ decodeTableWord 32 0x03FFF823 = some (.subu 31 31 31) := by decide
theorem test_decode_and : decodeTableWord 32 0b00000001001100101101100000100100 = some (.and 27 9 18)
    ∧ decodeTableWord 32 0x03FFF824 = some (.and 31 31 31) := by decide
theorem test_decode_or : decodeTableWord 32 0b00000001001100101101100000100101 = some (.or 27 9 18)
    ∧ decodeTableWord 32 0x03FFF825 = some (.or 31 31 31) := by decide
theorem test_decode_xor : decodeTableWord 32 0b00000001001100101101100000100110 = some (.xor 27 9 18)
    ∧ decodeTableWord 32 0x03FFF826 = some (.xor 31 31 31) := by decide
theorem test_decode_nor : decodeTableWord 32 0b00000001001100101101100000100111 = some (.nor 27 9 18)
    ∧ decodeTableWord 32 0x03FFF827 = some (.nor 31 31 31) := by decide
theorem test_decode_slt : decodeTableWord 32 0b00000001001100101101100000101010 = some (.slt 27 9 18)
    ∧ decodeTableWord 32 0x03FFF82A = some (.slt 31 31 31) := by decide
theorem test_decode_sltu : decodeTableWord 32 0b00000001001100101101100000101011 = some (.sltu 27 9 18)
    ∧ decodeTableWord 32 0x03FFF82B = some (.sltu 31 31 31) := by decide
theorem test_decode_srav : decodeTableWord 32 0b00000001001100101101100000000111 = some (.srav 27 18 9)
    ∧ decodeTableWord 32 0x03FFF807 = some (.srav 31 31 31) := by decide
theorem test_decode_srlv : decodeTableWord 32 0b00000001001100101101100000000110 = some (.srlv 27 18 9)
    ∧ decodeTableWord 32 0x03FFF806 = some (.srlv 31 31 31) := by decide
theorem test_decode_sllv : decodeTableWord 32 0b00000001001100101101100000000100 = some (.sllv 27 18 9)
    ∧ decodeTableWord 32 0x03FFF804 = some (.sllv 31 31 31) := by decide
theorem test_decode_mul : decodeTableWord 32 0b01110001001100101101100000000010 = some (.mul 27 9 18)
    ∧ decodeTableWord 32 0x73FFF802 = some (.mul 31 31 31) := by decide
theorem test_decode_div : decodeTableWord 32 0b10011101001100101101100000000101 = some (.div 27 9 18)
    ∧ decodeTableWord 32 0x9FFFF805 = some (.div 31 31 31) := by decide
theorem test_decode_divu : decodeTableWord 32 0b10011101001100101101100000000111 = some (.divu 27 9 18)
    ∧ decodeTableWord 32 0x9FFFF807 = some (.divu 31 31 31) := by decide
theorem test_decode_rem : decodeTableWord 32 0b10011101001100101101100000000110 = some (.rem 27 9 18)
    ∧ decodeTableWord 32 0x9FFFF806 = some (.rem 31 31 31) := by decide
theorem test_decode_remu : decodeTableWord 32 0b10011101001100101101100000001000 = some (.remu 27 9 18)
    ∧ decodeTableWord 32 0x9FFFF808 = some (.remu 31 31 31) := by decide
theorem test_decode_addiu : decodeTableWord 32 0b00100101001100101010010111000011 = some (.addiu 18 9 0xa5c3)
    ∧ decodeTableWord 32 0x27FFFFFF = some (.addiu 31 31 0xffff) := by decide
theorem test_decode_lui : decodeTableWord 32 0b00111100000100101010010111000011 = some (.lui 18 0xa5c3)
    ∧ decodeTableWord 32 0x3C1FFFFF = some (.lui 31 0xffff) := by decide
theorem test_decode_ori : decodeTableWord 32 0b00110101001100101010010111000011 = some (.ori 18 9 0xa5c3)
    ∧ decodeTableWord 32 0x37FFFFFF = some (.ori 31 31 0xffff) := by decide
theorem test_decode_andi : decodeTableWord 32 0b00110001001100101010010111000011 = some (.andi 18 9 0xa5c3)
    ∧ decodeTableWord 32 0x33FFFFFF = some (.andi 31 31 0xffff) := by decide
theorem test_decode_xori : decodeTableWord 32 0b00111001001100101010010111000011 = some (.xori 18 9 0xa5c3)
    ∧ decodeTableWord 32 0x3BFFFFFF = some (.xori 31 31 0xffff) := by decide
theorem test_decode_slti : decodeTableWord 32 0b00101001001100101010010111000011 = some (.slti 18 9 0xa5c3)
    ∧ decodeTableWord 32 0x2BFFFFFF = some (.slti 31 31 0xffff) := by decide
theorem test_decode_sltiu : decodeTableWord 32 0b00101101001100101010010111000011 = some (.sltiu 18 9 0xa5c3)
    ∧ decodeTableWord 32 0x2FFFFFFF = some (.sltiu 31 31 0xffff) := by decide
theorem test_decode_sra : decodeTableWord 32 0b00000000000100101101100101000011 = some (.sra 27 18 5)
    ∧ decodeTableWord 32 0x001FFFC3 = some (.sra 31 31 31) := by decide
theorem test_decode_srl : decodeTableWord 32 0b00000000000100101101100101000010 = some (.srl 27 18 5)
    ∧ decodeTableWord 32 0x001FFFC2 = some (.srl 31 31 31) := by decide
theorem test_decode_sll : decodeTableWord 32 0b00000000000100101101100101000000 = some (.sll 27 18 5)
    ∧ decodeTableWord 32 0x001FFFC0 = some (.sll 31 31 31) := by decide
theorem test_decode_lw : decodeTableWord 32 0b10001101001100101010010111000011 = some (.lw 18 9 0xa5c3)
    ∧ decodeTableWord 32 0x8FFFFFFF = some (.lw 31 31 0xffff) := by decide
theorem test_decode_lh : decodeTableWord 32 0b10000101001100101010010111000011 = some (.lh 18 9 0xa5c3)
    ∧ decodeTableWord 32 0x87FFFFFF = some (.lh 31 31 0xffff) := by decide
theorem test_decode_lhu : decodeTableWord 32 0b10010101001100101010010111000011 = some (.lhu 18 9 0xa5c3)
    ∧ decodeTableWord 32 0x97FFFFFF = some (.lhu 31 31 0xffff) := by decide
theorem test_decode_lb : decodeTableWord 32 0b10000001001100101010010111000011 = some (.lb 18 9 0xa5c3)
    ∧ decodeTableWord 32 0x83FFFFFF = some (.lb 31 31 0xffff) := by decide
theorem test_decode_lbu : decodeTableWord 32 0b10010001001100101010010111000011 = some (.lbu 18 9 0xa5c3)
    ∧ decodeTableWord 32 0x93FFFFFF = some (.lbu 31 31 0xffff) := by decide
theorem test_decode_sw : decodeTableWord 32 0b10101101001100101010010111000011 = some (.sw 18 9 0xa5c3)
    ∧ decodeTableWord 32 0xAFFFFFFF = some (.sw 31 31 0xffff) := by decide
theorem test_decode_sh : decodeTableWord 32 0b10100101001100101010010111000011 = some (.sh 18 9 0xa5c3)
    ∧ decodeTableWord 32 0xA7FFFFFF = some (.sh 31 31 0xffff) := by decide
theorem test_decode_sb : decodeTableWord 32 0b10100001001100101010010111000011 = some (.sb 18 9 0xa5c3)
    ∧ decodeTableWord 32 0xA3FFFFFF = some (.sb 31 31 0xffff) := by decide
theorem test_decode_j : decodeTableWord 32 0b00001010101001011100001111100001 = some (.j 0x2a5c3e1)
    ∧ decodeTableWord 32 0x0BFFFFFF = some (.j 0x3ffffff) := by decide
theorem test_decode_jr : decodeTableWord 32 0b00000001001000000000000000001000 = some (.jr 9)
    ∧ decodeTableWord 32 0x03E00008 = some (.jr 31) := by decide
theorem test_decode_jalr : decodeTableWord 32 0b00000001001000001101100000001001 = some (.jalr 27 9)
    ∧ decodeTableWord 32 0x03E0F809 = some (.jalr 31 31) := by decide
theorem test_decode_jal : decodeTableWord 32 0b00001110101001011100001111100001 = some (.jal 0x2a5c3e1)
    ∧ decodeTableWord 32 0x0FFFFFFF = some (.jal 0x3ffffff) := by decide
theorem test_decode_beq : decodeTableWord 32 0b00010001001100101010010111000011 = some (.beq 9 18 0xa5c3)
    ∧ decodeTableWord 32 0x13FFFFFF = some (.beq 31 31 0xffff) := by decide
theorem test_decode_bne : decodeTableWord 32 0b00010101001100101010010111000011 = some (.bne 9 18 0xa5c3)
    ∧ decodeTableWord 32 0x17FFFFFF = some (.bne 31 31 0xffff) := by decide
theorem test_decode_bgtz : decodeTableWord 32 0b00011101001000001010010111000011 = some (.bgtz 9 0xa5c3)
    ∧ decodeTableWord 32 0x1FE0FFFF = some (.bgtz 31 0xffff) := by decide
theorem test_decode_bltz : decodeTableWord 32 0b00000101001000001010010111000011 = some (.bltz 9 0xa5c3)
    ∧ decodeTableWord 32 0x07E0FFFF = some (.bltz 31 0xffff) := by decide
theorem test_decode_bgez : decodeTableWord 32 0b00000101001000011010010111000011 = some (.bgez 9 0xa5c3)
    ∧ decodeTableWord 32 0x07E1FFFF = some (.bgez 31 0xffff) := by decide
theorem test_decode_blez : decodeTableWord 32 0b00011001001000001010010111000011 = some (.blez 9 0xa5c3)
    ∧ decodeTableWord 32 0x1BE0FFFF = some (.blez 31 0xffff) := by decide
theorem test_decode_amoAdd : decodeTableWord 32 0b10011101001100101101100000000010 = some (.amoAdd 27 9 18)
    ∧ decodeTableWord 32 0x9FFFF802 = some (.amoAdd 31 31 31) := by decide
theorem test_decode_amoAnd : decodeTableWord 32 0b10011101001100101101100000000011 = some (.amoAnd 27 9 18)
    ∧ decodeTableWord 32 0x9FFFF803 = some (.amoAnd 31 31 31) := by decide
theorem test_decode_amoOr : decodeTableWord 32 0b10011101001100101101100000000100 = some (.amoOr 27 9 18)
    ∧ decodeTableWord 32 0x9FFFF804 = some (.amoOr 31 31 31) := by decide
theorem test_decode_sync : decodeTableWord 32 0b00000000000000000000000000001111 = some .sync
    ∧ decodeTableWord 32 0x0000000F = some .sync := by decide
theorem test_decode_syscall : decodeTableWord 32 0b00000000000000000000000000001100 = some .syscall
    ∧ decodeTableWord 32 0x0000000C = some .syscall := by decide
theorem test_decode_eret : decodeTableWord 32 0b00000000000000000000000000011000 = some .eret
    ∧ decodeTableWord 32 0x00000018 = some .eret := by decide

/-- Section 2.10: words of MIPS32 that match no row. -/
theorem test_decode_rejects_mips32 : (([0x00000010, 0x00000012, 0x00220018, 0x0022001A, 0x00221820, 0x00221822, 0x20220001,
    0x88220000, 0x98220000, 0xA8220000, 0xB8220000, 0xC0220000, 0xE0220000, 0x0000000D, 0x04310001, 0x50220001,
    0x42000018] : List Nat).all fun w => decodeTableWord 32 w == none) = true := by decide

/-- D14, D15, D39: a bit set in a field that must be zero. -/
theorem test_decode_rejects_set_fixed_bits : (([0x40020801, 0x00211100, 0x04220001, 0x1C210001, 0x0000004C, 0x00221861, 0x3C220001,
    0x03E10008, 0x03E1F809, 0x0000004F, 0x00000058, 0x9C221842] : List Nat).all fun w => decodeTableWord 32 w == none) = true := by decide

/-- R60: the byte at the lowest address is bits 7:0 of the word. -/
theorem test_decode_bytes_of_addu : decodeBytes .v4 [0x21, 0x18, 0x22, 0x00, 0xFF] = .ok (.addu 3 1 2, [0xFF]) := by decide
theorem test_decode_three_bytes : decodeBytes .v4 [0x21, 0x18, 0x22] = .error .tooShort := by decide
theorem test_decode_later_version : decode .v3 0x0000000C = .error .laterVersion := by decide

/-! ## One step -/

theorem test_mfc0_takes_the_head :
    nextHas (run 0x40020800 ({ State.reset with mngr2proc := [0xDEADBEEF, 1] })) (fun t => t.readReg 2 == 0xDEADBEEF && t.pc == 0x1004 && t.mngr2proc == [1]) = true := by decide
theorem test_mfc0_holds_on_empty :
    nextHas (run 0x40020800 (State.reset)) (fun t => t.pc == 0x1000 && t.readReg 2 == 0) = true := by decide
theorem test_mtc0_appends_at_the_tail :
    nextHas (run 0x40821000 ({ withRegs [(2, 0x2A)] with proc2mngr := [1] })) (fun t => t.proc2mngr == [1, 0x2A] && t.pc == 0x1004) = true := by decide
theorem test_mtc0_of_mngr2proc_faults :
    faultsWith (run 0x40820800 (withRegs [(2, 5)])) .undefinedCP0Access = true := by decide
theorem test_addu_wraps :
    nextHas (run 0x00221821 (withRegs [(1, 0xFFFFFFFF), (2, 1)])) (fun t => t.readReg 3 == 0 && t.pc == 0x1004) = true := by decide
theorem test_addu_into_its_sources :
    nextHas (run 0x00210821 (withRegs [(1, 0x40000000)])) (fun t => t.readReg 1 == 0x80000000 && t.pc == 0x1004) = true := by decide
theorem test_subu_borrows :
    nextHas (run 0x00221823 (withRegs [(2, 1)])) (fun t => t.readReg 3 == 0xFFFFFFFF && t.pc == 0x1004) = true := by decide
theorem test_and :
    nextHas (run 0x00221824 (withRegs [(1, 0xF0F0F0F0), (2, 0x0FF00FF0)])) (fun t => t.readReg 3 == 0x00F000F0 && t.pc == 0x1004) = true := by decide
theorem test_or :
    nextHas (run 0x00221825 (withRegs [(1, 0xF0F0F0F0), (2, 0x0FF00FF0)])) (fun t => t.readReg 3 == 0xFFF0FFF0 && t.pc == 0x1004) = true := by decide
theorem test_xor :
    nextHas (run 0x00221826 (withRegs [(1, 0xF0F0F0F0), (2, 0x0FF00FF0)])) (fun t => t.readReg 3 == 0xFF00FF00 && t.pc == 0x1004) = true := by decide
theorem test_nor :
    nextHas (run 0x00221827 (withRegs [(1, 0xF0F0F0F0), (2, 0x0FF00FF0)])) (fun t => t.readReg 3 == 0x000F000F && t.pc == 0x1004) = true := by decide
theorem test_slt_is_signed :
    nextHas (run 0x0022182A (withRegs [(1, 0xFFFFFFFF), (2, 1)])) (fun t => t.readReg 3 == 1 && t.pc == 0x1004) = true := by decide
theorem test_sltu_is_unsigned :
    nextHas (run 0x0022182B (withRegs [(1, 0xFFFFFFFF), (2, 1)])) (fun t => t.readReg 3 == 0 && t.pc == 0x1004) = true := by decide
theorem test_srav_operand_order :
    nextHas (run 0x00411807 (withRegs [(1, 0x80000000), (2, 4)])) (fun t => t.readReg 3 == 0xF8000000 && t.pc == 0x1004) = true := by decide
theorem test_srav_full_amount :
    nextHas (run 0x00411807 (fullShift (withRegs [(1, 0x80000000), (2, 0x20)]))) (fun t => t.readReg 3 == 0xFFFFFFFF && t.pc == 0x1004) = true := by decide
theorem test_srlv_takes_low_five_bits :
    nextHas (run 0x00411806 (withRegs [(1, 0x80000000), (2, 0x24)])) (fun t => t.readReg 3 == 0x08000000 && t.pc == 0x1004) = true := by decide
theorem test_srlv_full_amount :
    nextHas (run 0x00411806 (fullShift (withRegs [(1, 0x80000000), (2, 0x24)]))) (fun t => t.readReg 3 == 0 && t.pc == 0x1004) = true := by decide
theorem test_sllv :
    nextHas (run 0x00411804 (withRegs [(1, 0xFFFFFFFF), (2, 4)])) (fun t => t.readReg 3 == 0xFFFFFFF0 && t.pc == 0x1004) = true := by decide
theorem test_sllv_takes_low_five_bits :
    nextHas (run 0x00411804 (withRegs [(1, 1), (2, 0x21)])) (fun t => t.readReg 3 == 2 && t.pc == 0x1004) = true := by decide
theorem test_mul_keeps_the_low_half :
    nextHas (run 0x70221802 (withRegs [(1, 0x12345678), (2, 0x9ABCDEF0)])) (fun t => t.readReg 3 == 0x242D2080 && t.pc == 0x1004) = true := by decide
theorem test_div_rounds_toward_zero :
    nextHas (run 0x9C221805 (withRegs [(1, 0xFFFFFFF9), (2, 2)])) (fun t => t.readReg 3 == 0xFFFFFFFD && t.pc == 0x1004) = true := by decide
theorem test_div_by_zero_goes_on :
    nextHas (run 0x9C221805 (withRegs [(1, 5)])) (fun t => t.pc == 0x1004 && t.readReg 1 == 5) = true := by decide
theorem test_divu :
    nextHas (run 0x9C221807 (withRegs [(1, 0xFFFFFFF9), (2, 2)])) (fun t => t.readReg 3 == 0x7FFFFFFC && t.pc == 0x1004) = true := by decide
theorem test_rem_has_the_dividends_sign :
    nextHas (run 0x9C221806 (withRegs [(1, 0xFFFFFFF9), (2, 2)])) (fun t => t.readReg 3 == 0xFFFFFFFF && t.pc == 0x1004) = true := by decide
theorem test_remu_of_large :
    nextHas (run 0x9C221808 (withRegs [(1, 0x80000000), (2, 0xFFFFFFFF)])) (fun t => t.readReg 3 == 0x80000000 && t.pc == 0x1004) = true := by decide
theorem test_addiu_extends_the_sign :
    nextHas (run 0x2422FFFF (withRegs [(1, 0)])) (fun t => t.readReg 2 == 0xFFFFFFFF && t.pc == 0x1004) = true := by decide
theorem test_lui :
    nextHas (run 0x3C02FFFF (State.reset)) (fun t => t.readReg 2 == 0xFFFF0000 && t.pc == 0x1004) = true := by decide
theorem test_ori_extends_with_zeros :
    nextHas (run 0x34028000 (State.reset)) (fun t => t.readReg 2 == 0x00008000 && t.pc == 0x1004) = true := by decide
theorem test_andi_clears_the_upper_half :
    nextHas (run 0x3022FF00 (withRegs [(1, 0xFFFFFFFF)])) (fun t => t.readReg 2 == 0xFF00 && t.pc == 0x1004) = true := by decide
theorem test_xori :
    nextHas (run 0x3822FFFF (withRegs [(1, 0xFFFFFFFF)])) (fun t => t.readReg 2 == 0xFFFF0000 && t.pc == 0x1004) = true := by decide
theorem test_slti_negative :
    nextHas (run 0x2822FFFF (withRegs [(1, 0xFFFFFFFE)])) (fun t => t.readReg 2 == 1 && t.pc == 0x1004) = true := by decide
theorem test_sltiu_extends_then_compares_unsigned :
    nextHas (run 0x2C22FFFF (withRegs [(1, 0)])) (fun t => t.readReg 2 == 1 && t.pc == 0x1004) = true := by decide
theorem test_sltiu_of_large :
    nextHas (run 0x2C227FFF (withRegs [(1, 0x80000000)])) (fun t => t.readReg 2 == 0 && t.pc == 0x1004) = true := by decide
theorem test_sra_by_31 :
    nextHas (run 0x000117C3 (withRegs [(1, 0x80000000)])) (fun t => t.readReg 2 == 0xFFFFFFFF && t.pc == 0x1004) = true := by decide
theorem test_srl_by_31 :
    nextHas (run 0x000117C2 (withRegs [(1, 0x80000000)])) (fun t => t.readReg 2 == 1 && t.pc == 0x1004) = true := by decide
theorem test_sll_by_31 :
    nextHas (run 0x000117C0 (withRegs [(1, 1)])) (fun t => t.readReg 2 == 0x80000000 && t.pc == 0x1004) = true := by decide
theorem test_all_zero_word :
    nextHas (run 0x00000000 (State.reset)) (fun t => t.pc == 0x1004 && t.regs == State.reset.regs) = true := by decide
theorem test_lw_is_little_endian :
    nextHas (run 0x8C220000 (withData (withRegs [(1, 0x2000)]))) (fun t => t.readReg 2 == 0x12345678 && t.pc == 0x1004) = true := by decide
theorem test_lw_misaligned :
    faultsWith (run 0x8C220002 (withData (withRegs [(1, 0x2000)]))) .misalignedData = true := by decide
theorem test_lh_extends_the_sign :
    nextHas (run 0x84220004 (withData (withRegs [(1, 0x2000)]))) (fun t => t.readReg 2 == 0xFFFF8081 && t.pc == 0x1004) = true := by decide
theorem test_lhu_extends_with_zeros :
    nextHas (run 0x94220004 (withData (withRegs [(1, 0x2000)]))) (fun t => t.readReg 2 == 0x00008081 && t.pc == 0x1004) = true := by decide
theorem test_lhu_misaligned :
    faultsWith (run 0x94220003 (withData (withRegs [(1, 0x2000)]))) .misalignedData = true := by decide
theorem test_lb_extends_the_sign :
    nextHas (run 0x80220004 (withData (withRegs [(1, 0x2000)]))) (fun t => t.readReg 2 == 0xFFFFFF81 && t.pc == 0x1004) = true := by decide
theorem test_lbu_extends_with_zeros :
    nextHas (run 0x90220004 (withData (withRegs [(1, 0x2000)]))) (fun t => t.readReg 2 == 0x81 && t.pc == 0x1004) = true := by decide
theorem test_sw :
    nextHas (run 0xAC220000 (withData (withRegs [(1, 0x2000), (2, 0xAABBCCDD)]))) (fun t => holds t 0x2000 [0xDD, 0xCC, 0xBB, 0xAA, 0x81, 0x80, 0xFF, 0x7F] && t.pc == 0x1004) = true := by decide
theorem test_sh :
    nextHas (run 0xA4220002 (withData (withRegs [(1, 0x2000), (2, 0xAABBCCDD)]))) (fun t => holds t 0x2000 [0x78, 0x56, 0xDD, 0xCC, 0x81, 0x80, 0xFF, 0x7F]) = true := by decide
theorem test_sh_misaligned :
    faultsWith (run 0xA4220001 (withData (withRegs [(1, 0x2000), (2, 0xAABBCCDD)]))) .misalignedData = true := by decide
theorem test_sb :
    nextHas (run 0xA0220001 (withData (withRegs [(1, 0x2000), (2, 0xAABBCCDD)]))) (fun t => holds t 0x2000 [0x78, 0xDD, 0x34, 0x12, 0x81, 0x80, 0xFF, 0x7F]) = true := by decide
theorem test_sb_of_register_zero :
    nextHas (run 0xA0200007 (withData (withRegs [(1, 0x2000)]))) (fun t => holds t 0x2000 [0x78, 0x56, 0x34, 0x12, 0x81, 0x80, 0xFF, 0x00]) = true := by decide
theorem test_j_region_is_that_of_the_next_pc :
    nextHas (run 0x08000000 ({ State.reset with pc := 0x0FFFFFFC })) (fun t => t.pc == 0x10000000) = true := by decide
theorem test_jal_links_pc_plus_4 :
    nextHas (run 0x0C000404 ({ State.reset with pc := 0x1004 })) (fun t => t.readReg 31 == 0x1008 && t.pc == 0x1010) = true := by decide
theorem test_jr :
    nextHas (run 0x03E00008 ({ withRegs [(31, 0x1008)] with pc := 0x1020 })) (fun t => t.pc == 0x1008) = true := by decide
theorem test_jr_misaligned :
    faultsWith (run 0x00200008 ({ withRegs [(1, 0x1002)] with pc := 0x1020 })) .misalignedJumpTarget = true := by decide
theorem test_jalr :
    nextHas (run 0x00802809 ({ withRegs [(4, 0x2000)] with pc := 0x1010 })) (fun t => t.readReg 5 == 0x1014 && t.pc == 0x2000) = true := by decide
theorem test_jalr_same_register :
    faultsWith (run 0x00802009 ({ withRegs [(4, 0x2000)] with pc := 0x1010 })) .jalrSameRegister = true := by decide
theorem test_beq_taken :
    nextHas (run 0x10220003 (withRegs [(1, 5), (2, 5)])) (fun t => t.pc == 0x1010) = true := by decide
theorem test_beq_farthest_backward :
    nextHas (run 0x10008000 ({ State.reset with pc := 0x00100000 })) (fun t => t.pc == 0x000E0004) = true := by decide
theorem test_bne_taken :
    nextHas (run 0x1422FFFE ({ withRegs [(1, 1)] with pc := 0x1010 })) (fun t => t.pc == 0x100C) = true := by decide
theorem test_bne_not_taken :
    nextHas (run 0x1422FFFE ({ withRegs [(1, 7), (2, 7)] with pc := 0x1010 })) (fun t => t.pc == 0x1014) = true := by decide
theorem test_bgtz_of_zero :
    nextHas (run 0x1C200001 (withRegs [(1, 0)])) (fun t => t.pc == 0x1004) = true := by decide
theorem test_bgtz_of_positive :
    nextHas (run 0x1C200001 (withRegs [(1, 5)])) (fun t => t.pc == 0x1008) = true := by decide
theorem test_bltz_of_negative :
    nextHas (run 0x04200001 (withRegs [(1, 0xFFFFFFFF)])) (fun t => t.pc == 0x1008) = true := by decide
theorem test_bltz_of_zero :
    nextHas (run 0x04200001 (withRegs [(1, 0)])) (fun t => t.pc == 0x1004) = true := by decide
theorem test_bgez_of_zero :
    nextHas (run 0x04210001 (withRegs [(1, 0)])) (fun t => t.pc == 0x1008) = true := by decide
theorem test_bgez_of_negative :
    nextHas (run 0x04210001 (withRegs [(1, 0x80000000)])) (fun t => t.pc == 0x1004) = true := by decide
theorem test_blez_of_zero :
    nextHas (run 0x18200001 (withRegs [(1, 0)])) (fun t => t.pc == 0x1008) = true := by decide
theorem test_blez_of_positive :
    nextHas (run 0x18200001 (withRegs [(1, 1)])) (fun t => t.pc == 0x1004) = true := by decide
/-- From the eight bytes of section 2.5 under R210. -/
theorem test_amoAdd_into_its_address_register :
    nextHas (run 0x9C220802 (withData (withRegs [(1, 0x2000), (2, 5)]))) (fun t => t.readReg 1 == 0x12345678 && holds t 0x2000 [0x7D, 0x56, 0x34, 0x12]) = true := by decide
theorem test_amoAdd_is_not_v2 :
    faultsWith (run 0x9C221802 (ofVersion .v2 (withData (withRegs [(1, 0x2000), (2, 5)])))) .undefinedInstruction = true := by decide
theorem test_amoAnd :
    nextHas (run 0x9C221803 ({ withRegs [(1, 0x2000), (2, 0xFF0)] with mem := [(0x2000, 0x0F), (0x2001, 0xFF), (0x2002, 0), (0x2003, 0)] })) (fun t => t.readReg 3 == 0xFF0F && holds t 0x2000 [0x00, 0x0F, 0, 0]) = true := by decide
theorem test_amoOr :
    nextHas (run 0x9C221804 ({ withRegs [(1, 0x2000), (2, 0xFF)] with mem := [(0x2000, 0x00), (0x2001, 0xFF), (0x2002, 0), (0x2003, 0)] })) (fun t => t.readReg 3 == 0xFF00 && holds t 0x2000 [0xFF, 0xFF, 0, 0]) = true := by decide
theorem test_sync :
    nextHas (run 0x0000000F (State.reset)) (fun t => t.pc == 0x1004 && t.regs == State.reset.regs) = true := by decide
theorem test_syscall_saves_its_own_address :
    nextHas (run 0x0000000C ({ State.reset with mode := .user, pc := 0x1020 })) (fun t => t.epc == 0x1020 && t.mode == .supervisor && t.pc == 4) = true := by decide
theorem test_syscall_is_not_v3 :
    faultsWith (run 0x0000000C (ofVersion .v3 State.reset)) .undefinedInstruction = true := by decide
theorem test_eret_returns_to_epc :
    nextHas (run 0x00000018 ({ State.reset with epc := 0x1020, epcSet := true, pc := 8 })) (fun t => t.pc == 0x1020 && t.mode == .user && t.epc == 0x1020) = true := by decide
theorem test_eret_before_any_syscall :
    faultsWith (run 0x00000018 (refusesUnsetEpc State.reset)) .unsetEPC = true := by decide

/-! ## Other agents (R246, R247, R249; spec/20_memory.md R55, R66) -/

theorem test_manager_sends : nextHas (step { State.reset with mngr2proc := [1], agenda := [.send 7] }) (fun t =>
    t.mngr2proc == [1, 7] && t.pc == 0x1000 && t.agenda == []) = true := by decide
theorem test_manager_receives : nextHas (step { State.reset with proc2mngr := [3, 4], agenda := [.receive] }) (fun t =>
    t.proc2mngr == [4] && t.received == [3] && t.pc == 0x1000) = true := by decide
theorem test_full_fifo_delays_the_manager : nextHas
    (step { (depthTwo (withRegs [(1, 5), (2, 7)])).withFetchWord 32 0x00221821 with mngr2proc := [1, 2], agenda := [.send 9] })
    (fun t => t.mngr2proc == [1, 2] && t.readReg 3 == 12 && t.agenda == [.send 9]) = true := by decide
theorem test_remote_store : nextHas (step { State.reset with numcores := 2, agenda := [.remoteHalf 0x2000 0xABCD] }) (fun t =>
    holds t 0x2000 [0xCD, 0xAB] && t.modified == [0x2000, 0x2001] && t.pc == 0x1000) = true := by decide
/-- R66: a store into the word at pc makes the next fetch of it a fault. -/
theorem test_fetch_of_modified_code : faultsWith (step { State.reset.withFetchWord 32 0x00221821 with modified := [0x1003] })
    .fetchOfModifiedCode = true := by decide
/-- R55, D36: with PADDR_BITS = 16 the address 0x00012000 is 0x2000. -/
theorem test_high_address_bits_are_ignored : nextHas (run 0x8C220000
    { withData (withRegs [(1, 0x00012000)]) with cfg := { Config.Params.atReset with paddrBits := 16 } })
    (fun t => t.readReg 2 == 0x12345678) = true := by decide

/-! ## Witnesses: states and operands that meet the hypotheses of the statements -/

theorem witness_DecodeOfEncodeIsTheInstruction :
    Instr.wellFormed .v1 (.addu 31 31 31) = true ∧ Instr.wellFormed .v4 .eret = true := by decide
theorem witness_EncodeOfDecodeIsTheWord :
    decode .v3 0x9FFFF802 = .ok (.amoAdd 31 31 31) := by decide
theorem witness_DecodeTreeAgreesWithOpcodeTable :
    (∃ row ∈ opcodeRows, row.isRowOf 0x9FFFF808 = true) ∧ ∀ row ∈ opcodeRows, row.isRowOf 0x00000010 = false := by decide
theorem witness_OpcodeRowsDoNotOverlap :
    ∃ a ∈ opcodeRows, ∃ b ∈ opcodeRows, a.isRowOf 0x0000000F = true ∧ b.isRowOf 0x0000000F = true := by decide
/-- The word `break` of MIPS32, at pc after reset. -/
def brokenWord : State := State.reset.withFetchWord 32 0x0000000D

/-- `syscall`, at pc after reset, in a machine of PARCv3. -/
def laterWord : State := ofVersion .v3 (State.reset.withFetchWord 32 0x0000000C)

/-- The same with the core's move first on the agenda, and with a move first on it that is not enabled. -/
def brokenWordWith (agenda : List Move) : State := { brokenWord with agenda := agenda }

theorem coreMovesNext_of_given (s : State) (rest : List Move) (h : s.agenda = .core :: rest) : CoreMovesNext s := .inr (.inl ⟨rest, h⟩)
theorem coreMovesNext_of_waiting (s : State) (m : Move) (rest : List Move) (h : s.agenda = m :: rest) (hm : m ≠ .core)
    (he : s.enabled m = false) : CoreMovesNext s := .inr (.inr ⟨m, rest, h, hm, he⟩)

theorem witness_UndefinedWordsFault_no_row :
    CoreMovesNext brokenWord ∧ brokenWord.pc.toNat % 4 = 0
    ∧ (∀ a ∈ brokenWord.modified, a < brokenWord.paddr brokenWord.pc ∨ brokenWord.paddr brokenWord.pc + 4 ≤ a)
    ∧ ∀ row ∈ opcodeRows, row.isRowOf (brokenWord.mem.word (brokenWord.paddr brokenWord.pc)) = true →
        brokenWord.cfg.version.number < row.since.number := ⟨.inl rfl, by decide⟩
theorem witness_UndefinedWordsFault_a_later_row :
    CoreMovesNext laterWord ∧ laterWord.pc.toNat % 4 = 0
    ∧ (∀ a ∈ laterWord.modified, a < laterWord.paddr laterWord.pc ∨ laterWord.paddr laterWord.pc + 4 ≤ a)
    ∧ ∀ row ∈ opcodeRows, row.isRowOf (laterWord.mem.word (laterWord.paddr laterWord.pc)) = true →
        laterWord.cfg.version.number < row.since.number := ⟨.inl rfl, by decide⟩
theorem witness_UndefinedWordsFault_core_move :
    CoreMovesNext (brokenWordWith [.core, .receive]) ∧ (brokenWordWith [.core, .receive]).pc.toNat % 4 = 0
    ∧ (∀ a ∈ (brokenWordWith [.core, .receive]).modified, a < (brokenWordWith [.core, .receive]).paddr (brokenWordWith [.core, .receive]).pc ∨ (brokenWordWith [.core, .receive]).paddr (brokenWordWith [.core, .receive]).pc + 4 ≤ a)
    ∧ ∀ row ∈ opcodeRows, row.isRowOf ((brokenWordWith [.core, .receive]).mem.word ((brokenWordWith [.core, .receive]).paddr (brokenWordWith [.core, .receive]).pc)) = true →
        (brokenWordWith [.core, .receive]).cfg.version.number < row.since.number := ⟨coreMovesNext_of_given _ _ rfl, by decide⟩
theorem witness_UndefinedWordsFault_waiting_move :
    CoreMovesNext (brokenWordWith [.receive, .core]) ∧ (brokenWordWith [.receive, .core]).pc.toNat % 4 = 0
    ∧ (∀ a ∈ (brokenWordWith [.receive, .core]).modified, a < (brokenWordWith [.receive, .core]).paddr (brokenWordWith [.receive, .core]).pc ∨ (brokenWordWith [.receive, .core]).paddr (brokenWordWith [.receive, .core]).pc + 4 ≤ a)
    ∧ ∀ row ∈ opcodeRows, row.isRowOf ((brokenWordWith [.receive, .core]).mem.word ((brokenWordWith [.receive, .core]).paddr (brokenWordWith [.receive, .core]).pc)) = true →
        (brokenWordWith [.receive, .core]).cfg.version.number < row.since.number := ⟨coreMovesNext_of_waiting _ _ _ rfl (by decide) (by decide), by decide⟩
/-- `addiu r2, r0, 7` at pc after reset. -/
def ready : State := State.reset.withFetchWord 32 0x24020007

theorem inv_of_ready : ready.Inv := by constructor <;> decide

theorem witness_EveryStepKeepsInv :
    ready.Inv ∧ ∃ t, step ready = .next t := ⟨inv_of_ready, exists_next (by decide)⟩
/-- `ready`, with the manager about to send. -/
def sending : State := { ready with agenda := [.send 7] }

theorem witness_EveryStepKeepsInv_manager :
    sending.Inv ∧ ∃ t, step sending = .next t := ⟨by constructor <;> decide, exists_next (by decide)⟩
theorem witness_StepRunsTheDecodedInstruction :
    ready.pc.toNat % 4 = 0 ∧ (∀ a ∈ ready.modified, a < ready.paddr ready.pc ∨ ready.paddr ready.pc + 4 ≤ a)
    ∧ decode ready.cfg.version (ready.mem.word (ready.paddr ready.pc)) = .ok (.addiu 2 0 7) ∧ ready.agenda = [] := by decide
/-- `ready` with bytes stored to on both sides of the word at pc, and moves on the agenda. -/
def readyWith (agenda : List Move) : State := { ready with modified := [0xFFF, 0x1004], agenda := agenda }

theorem witness_StepRunsTheDecodedInstruction_agenda :
    (∀ a ∈ (readyWith [.core]).modified, a < (readyWith [.core]).paddr 0x1000 ∨ (readyWith [.core]).paddr 0x1000 + 4 ≤ a)
    ∧ (readyWith [.core]).pc = 0x1000 ∧ (readyWith [.core, .receive]).agenda = .core :: [.receive]
    ∧ (readyWith [.receive]).agenda = .receive :: [] ∧ Move.receive ≠ .core ∧ (readyWith [.receive]).enabled .receive = false
    ∧ (readyWith []).enabled (.remoteByte 0 0) = false := by decide
theorem witness_PlacedWordIsRunNext :
    Instr.wellFormed State.reset.cfg.version .eret = true ∧ State.reset.pc.toNat % 4 = 0 := by decide
/-- A state with the last byte of the word at pc, or the first, stored to, and these moves to come. -/
def storedTo (a : Nat) (agenda : List Move) : State := { ready with modified := [a], agenda := agenda }

theorem witness_FetchOfModifiedCodeFaults_last_byte :
    CoreMovesNext (storedTo 0x1003 []) ∧ ∃ a ∈ (storedTo 0x1003 []).modified, (storedTo 0x1003 []).paddr (storedTo 0x1003 []).pc ≤ a ∧ a < (storedTo 0x1003 []).paddr (storedTo 0x1003 []).pc + 4 := ⟨.inl rfl, by decide⟩
theorem witness_FetchOfModifiedCodeFaults_first_byte_core_move :
    CoreMovesNext (storedTo 0x1000 [.core]) ∧ ∃ a ∈ (storedTo 0x1000 [.core]).modified, (storedTo 0x1000 [.core]).paddr (storedTo 0x1000 [.core]).pc ≤ a ∧ a < (storedTo 0x1000 [.core]).paddr (storedTo 0x1000 [.core]).pc + 4 := ⟨coreMovesNext_of_given _ _ rfl, by decide⟩
theorem witness_FetchOfModifiedCodeFaults_waiting_move :
    CoreMovesNext (storedTo 0x1003 [.remoteByte 0 0]) ∧ ∃ a ∈ (storedTo 0x1003 [.remoteByte 0 0]).modified, (storedTo 0x1003 [.remoteByte 0 0]).paddr (storedTo 0x1003 [.remoteByte 0 0]).pc ≤ a ∧ a < (storedTo 0x1003 [.remoteByte 0 0]).paddr (storedTo 0x1003 [.remoteByte 0 0]).pc + 4 := ⟨coreMovesNext_of_waiting _ _ _ rfl (by decide) (by decide), by decide⟩
theorem witness_FetchOfModifiedCodeFaults_store :
    ∃ t, exec (.sw 2 0 0x2000) State.reset = .next t := exists_next (by decide)
theorem witness_RegisterZeroIsZero :
    (31 : Reg) ≠ 0 ∧ (1 : Reg) ≠ 31 := by decide
theorem witness_OnlyTheDestinationRegisterChanges :
    (∃ t, exec (.jal 1) State.reset = .next t) ∧ Instr.destination (.jal 1) ≠ some 30 := ⟨exists_next (by decide), by decide⟩
theorem witness_MixedWidthAccessesAreLittleEndian :
    State.reset.cfg.wf = true ∧ (0xFFFFFFFC : Word).toNat % 4 = 0 := by decide
theorem witness_MemWriteStoresItsBytesAndNoOther :
    (0xFFFFFFFE : Word).toNat % 2 = 0 ∧ (0xFFFFFFFC : Word).toNat % 4 = 0 ∧ (0xFFFFFFFF : Word).toNat % 2 ≠ 0
    ∧ (0xFFFFFFFE : Word).toNat % 4 ≠ 0 := by decide
theorem witness_HighAddressBitsAreTruncated :
    ∃ p : Config.Params, p.wf = true ∧ p.paddrBits = 13 ∧ (0xFFFFE004 : Word).toNat % 2 ^ p.paddrBits = (4 : Word).toNat % 2 ^ p.paddrBits := ⟨⟨.v4, 13, .low5, none, .refuse, .refuse⟩, by decide⟩
theorem witness_OnlyTheStoredBytesChange :
    (∃ t, exec (.sh 2 0 0x2000) State.reset = .next t)
    ∧ (∀ p n, Instr.storeRange State.reset (.sh 2 0 0x2000) = some (p, n) → 0x2002 < p ∨ p + n ≤ 0x2002) := ⟨exists_next (by decide), fun p n h => by cases h; decide⟩
theorem witness_MisalignedAccessesFault :
    (State.reset.effAddr 0 0xFFFF).toNat % 4 ≠ 0 ∧ (State.reset.effAddr 0 1).toNat % 2 ≠ 0
    ∧ ((withRegs [(1, 0x2002)]).readReg 1).toNat % 4 ≠ 0 := by decide
/-- A state whose register 2 holds the shift amount. -/
def amount (v : Word) : State := withRegs [(2, v)]

theorem witness_VariableShiftResults :
    (((amount 31).readReg 2).toNat < 32 ∧ 31 = ((amount 31).readReg 2).toNat)
    ∧ (32 ≤ ((amount 32).readReg 2).toNat ∧ (amount 32).cfg.shiftAmount = .low5 ∧ 0 = ((amount 32).readReg 2).toNat % 32)
    ∧ (32 ≤ ((fullShift (amount 32)).readReg 2).toNat ∧ (fullShift (amount 32)).cfg.shiftAmount = .full) := by decide
theorem witness_DivisionResults :
    ((withRegs [(1, 0x80000000), (2, 0xFFFFFFFF)]).readReg 1).toInt = -2 ^ 31
    ∧ ((withRegs [(1, 0x80000000), (2, 0xFFFFFFFF)]).readReg 2).toInt = -1
    ∧ ¬(((amount 1).readReg 2).toInt = 0) ∧ ((amount 0).readReg 2).toNat = 0 := by decide
theorem witness_QuotientAndRemainderRebuildTheDividend :
    (3 : Reg) ≠ 0 ∧ (∃ t, exec (.div 3 1 2) (amount 2) = .next t) ∧ (∃ u, exec (.rem 3 1 2) (amount 2) = .next u)
    ∧ (∃ t, exec (.divu 3 1 2) (amount 2) = .next t) ∧ (∃ u, exec (.remu 3 1 2) (amount 2) = .next u)
    ∧ ((amount 2).readReg 2).toInt ≠ 0 ∧ ((amount 2).readReg 2).toInt ≠ -1 ∧ ((amount 2).readReg 2).toNat ≠ 0 := ⟨by decide, exists_next (by decide), exists_next (by decide), exists_next (by decide), exists_next (by decide), by decide⟩
theorem witness_LoadWordResult :
    (State.reset.effAddr 0 0xFFFC).toNat % 4 = 0 ∧ (State.reset.effAddr 0 0xFFFE).toNat % 4 ≠ 0 := by decide
theorem witness_LoadHalfwordResults :
    (State.reset.effAddr 0 0xFFFE).toNat % 2 = 0 ∧ (State.reset.effAddr 0 0xFFFF).toNat % 2 ≠ 0 := by decide
theorem witness_StoreResults :
    (State.reset.effAddr 0 0xFFFC).toNat % 4 = 0 ∧ (State.reset.effAddr 0 0xFFFD).toNat % 4 ≠ 0
    ∧ (State.reset.effAddr 0 0xFFFE).toNat % 2 = 0 ∧ (State.reset.effAddr 0 0xFFFF).toNat % 2 ≠ 0 := by decide
/-- A state whose pc is the last word of the first region of 256 MiB. -/
def regionEnd : State := { State.reset with pc := 0x0FFFFFFC }

theorem witness_JumpResults :
    (0x1FFFFFFC : Word).toNat = (regionEnd.pc + 4).toNat / 2 ^ 28 * 2 ^ 28 + (0x3FFFFFF : Target).toNat * 4 := by decide
theorem witness_RegisterJumpResults :
    ((withRegs [(1, 0xFFFFFFFC)]).readReg 1).toNat % 4 = 0 ∧ ((withRegs [(1, 2)]).readReg 1).toNat % 4 ≠ 0
    ∧ (31 : Reg) ≠ 1 ∧ (1 : Reg) = 1 := by decide
theorem witness_BranchResults :
    ((0xFFFE1004 : Word).toNat : Int) = ((State.reset.pc.toNat : Int) + 4 + (0x8000 : Imm16).toInt * 4) % 2 ^ 32
    ∧ ((0x00021000 : Word).toNat : Int) = ((State.reset.pc.toNat : Int) + 4 + (0x7FFF : Imm16).toInt * 4) % 2 ^ 32 := by decide
theorem witness_AtomicResults :
    ((withRegs [(1, 0xFFFFFFFC)]).readReg 1).toNat % 4 = 0 ∧ ((withRegs [(1, 0xFFFFFFFE)]).readReg 1).toNat % 4 ≠ 0 := by decide
theorem witness_EretReturns :
    (State.reset.takeSyscall.epcSet = true ∧ (State.reset.epcSet = false ∧ State.reset.cfg.epcUnset = .resetValue))
    ∧ ((refusesUnsetEpc State.reset).epcSet = false ∧ (refusesUnsetEpc State.reset).cfg.epcUnset = .refuse)
    ∧ ∃ t, exec .eret State.reset = .next t ∧ (t.pc == 0 && t.mode == .user) = true := ⟨by decide, by decide, exists_next_with (p := fun t => t.pc == 0 && t.mode == .user) (by decide)⟩
theorem witness_OnlySyscallWritesEpc :
    (∃ t, step (State.reset.withFetchWord 32 0x0000000C) = .next t ∧ (t.epc == 0x1000) = true)
    ∧ ∃ t, step (State.reset.takeSyscall.withFetchWord 32 0x00000018) = .next t ∧ (t.epc == 0x1000) = true := ⟨exists_next_with (p := fun t => t.epc == 0x1000) (by decide), exists_next_with (p := fun t => t.epc == 0x1000) (by decide)⟩
theorem witness_ModeChangesOnlyBySyscallAndEret :
    (∃ t, step { State.reset.withFetchWord 32 0x0000000C with mode := .user } = .next t ∧ (t.mode == .supervisor) = true)
    ∧ ∃ t, step (State.reset.takeSyscall.withFetchWord 32 0x00000018) = .next t ∧ (t.mode == .user) = true := ⟨exists_next_with (p := fun t => t.mode == .supervisor) (by decide), exists_next_with (p := fun t => t.mode == .user) (by decide)⟩
theorem witness_MoveFromCoprocessorResults :
    (∃ v rest, [0xDEADBEEF, 1] = (v : Word) :: rest) ∧ State.reset.mngr2proc = []
    ∧ 3 ≤ (ofVersion .v3 State.reset).cfg.version.number ∧ 2 ≤ (ofVersion .v2 State.reset).cfg.version.number
    ∧ (ofVersion .v2 State.reset).cfg.statsRead = .lastWritten := ⟨⟨_, _, rfl⟩, by decide⟩
/-- A machine with FIFOs of two items and these items in both. -/
def queued (q : List Word) : State := depthTwo { State.reset with mngr2proc := q, proc2mngr := q }

theorem witness_MoveToCoprocessorResults :
    (∀ d, (queued [1]).cfg.fifoDepth = some d → (queued [1]).proc2mngr.length < d)
    ∧ ((queued [1, 2]).cfg.fifoDepth = some 2 ∧ 2 ≤ (queued [1, 2]).proc2mngr.length)
    ∧ 2 ≤ (ofVersion .v2 State.reset).cfg.version.number := ⟨fun d h => by cases h; decide, by decide⟩
theorem witness_UndefinedCoprocessorAccessesFault :
    exec (.mfc0 2 16) (ofVersion .v2 State.reset) = .fault .undefinedCP0Access
    ∧ exec (.mfc0 2 31) State.reset = .fault .undefinedCP0Access ∧ exec (.mtc0 2 17) State.reset = .fault .undefinedCP0Access := ⟨rfl, rfl, rfl⟩
theorem witness_ManagerMoves :
    (∀ d, (queued [1]).cfg.fifoDepth = some d → (queued [1]).mngr2proc.length < d) ∧ (queued [1, 2]).proc2mngr = 1 :: [2] := ⟨fun d h => by cases h; decide, by decide⟩
theorem witness_ItemsReachTheManagerInOrder :
    (∃ t, step { State.reset with proc2mngr := [3, 4], agenda := [.receive] } = .next t ∧ (t.received == [3]) = true)
    ∧ ∃ t, step (State.reset.withFetchWord 32 0x40801000) = .next t ∧ (t.proc2mngr == [0]) = true := ⟨exists_next_with (p := fun t => t.received == [3]) (by decide), exists_next_with (p := fun t => t.proc2mngr == [0]) (by decide)⟩
theorem witness_ManagerItemsAreReadInOrder :
    (∃ t, step { State.reset with agenda := [.send 7] } = .next t ∧ (t.mngr2proc == [7]) = true)
    ∧ ∃ t, step ((queued [7]).withFetchWord 32 0x40020800) = .next t ∧ (t.mngr2proc == []) = true := ⟨exists_next_with (p := fun t => t.mngr2proc == [7]) (by decide), exists_next_with (p := fun t => t.mngr2proc == []) (by decide)⟩
theorem witness_NumcoresAndCoreidAreConstant :
    ∃ t, step ready = .next t := exists_next (by decide)
/-- A system of two cores, the other of which is about to store. -/
def twoCores (m : Move) : State := { State.reset with numcores := 2, agenda := [m] }

theorem witness_RemoteStoresReachOnlyMemory :
    1 < (twoCores (.remoteWord 0xFFFFFFFC 5)).numcores.toNat
    ∧ (twoCores (.remoteWord 0xFFFFFFFC 5)).agenda = .remoteWord 0xFFFFFFFC 5 :: [] ∧ (0xFFFFFFFC : Word).toNat % 4 = 0
    ∧ (twoCores (.remoteHalf 0xFFFFFFFE 5)).agenda = .remoteHalf 0xFFFFFFFE 5 :: [] ∧ (0xFFFFFFFE : Word).toNat % 2 = 0
    ∧ (twoCores (.remoteByte 0xFFFFFFFF 5)).agenda = .remoteByte 0xFFFFFFFF 5 :: [] := by decide
theorem witness_FaultsAreTheInstructionsOwn :
    exec .eret (refusesUnsetEpc State.reset) = .fault .unsetEPC ∧ exec (.jalr 1 1) State.reset = .fault .jalrSameRegister
    ∧ exec (.jr 1) (withRegs [(1, 2)]) = .fault .misalignedJumpTarget := ⟨rfl, rfl, rfl⟩
/-- The image of program P6 of section 3: two handler words at 4 and four words at 0x1000. -/
def programP6 : Image :=
  imageOfWords 4 [0x275A0001, 0x00000018] ++ imageOfWords 0x1000 [0x241A0000, 0x0000000C, 0x409A1000, 0x1000FFFF]

/-- The smallest PARCv4 machine, with program P6 loaded. -/
def withP6 : State := State.resetWith (Config.Params.mk .v4 13 .full (some 1) .refuse .refuse) 1 0 programP6

/-- P6, step 1: pc 0x1000 to 0x1004, r26 is 0. -/
theorem test_image_first_step : nextHas (step withP6) (fun t => t.pc == 0x1004 && t.readReg 26 == 0 && t.mode == .supervisor) = true := by
  decide
/-- P6, step 2: the syscall at 0x1004 goes to the handler at 4. -/
theorem test_image_syscall : nextHas (step (withP6.jumpTo 0x1004)) (fun t => t.pc == 4 && t.epc == 0x1004) = true := by decide
/-- R263, R60: the words lie little-endian, and a byte outside the image is not listed. -/
theorem test_image_bytes : (holds withP6 4 [0x01, 0x00, 0x5A, 0x27, 0x18] && withP6.mem.byte? 0xC == none) = true := by decide
/-- R263: a list that gives an address twice, or one out of physical memory, is no map of physical addresses. -/
theorem test_wf_image : (Image.wf [(0, 1), (0, 2)] 13 || Image.wf [(0x2000, 1)] 13) = false := by decide

theorem witness_ResetHoldsTheImage :
    programP6.wf 13 = true ∧ (0x1000, 0x00) ∈ programP6 ∧ (∀ b, (0x1010, b) ∉ programP6) ∧ (∀ b, (0xFFF, b) ∉ programP6) := by decide
theorem witness_EveryResetMeetsInv :
    (Config.Params.mk .v3 13 .full (some 1) .refuse .refuse).wf = true ∧ programP6.wf 13 = true ∧ 1 ≤ (2 : Word).toNat
    ∧ ¬ (Config.Params.mk .v3 13 .full (some 1) .refuse .refuse).version.number < 3 ∧ (1 : Word).toNat < (2 : Word).toNat := by decide
theorem witness_FirstWordOfTheImageRunsFirst :
    (Config.Params.mk .v4 13 .full (some 1) .refuse .refuse).wf = true ∧ Instr.wellFormed .v4 .eret = true := by decide

end Sys2Proof.Tests
end

section
/-! PROOF. Register-register arithmetic (spec/41_reg_reg_arith.md): the word of an instruction, what an instruction that ends
with a write of one register leaves, and the bitwise operations. -/

namespace Sys2Proof

/-- The decode tree undoes the encoder: each instruction's fixed fields select its own leaf, and that leaf reads back its
operands (spec/30_encoding.md R85 to R88). -/
theorem decodeWord_encode (i : Instr) : decodeWord (encode i) = some i := by
  cases i <;>
    simp [encode, decodeWord, decodeSpecial, decodeRegimm, decodeCop0, decodeSpecial2, decodeParc, onlyIf]

end Sys2Proof

namespace Sys2Proof.Machine

theorem isWordOf_encode (i : Instr) : IsWordOf (encode i) i i.since := ⟨decodeWord_encode i, rfl, rfl⟩

theorem sameMem_writeBack (s : State) (rd : Reg) (v : Word) : SameMem s (s.writeBack rd v) := by
  simp [SameMem]

theorem sameRest_writeBack (s : State) (rd : Reg) (v : Word) : SameRest s (s.writeBack rd v) := by
  simp [SameRest, SameException, SameFifos, SameSurroundings]

/-- The end of an instruction with one result writes that result and advances pc, and changes nothing else
(spec/10_state.md R21, R25). -/
theorem writesReg_writeBack (s : State) (rd : Reg) (v : Word) : WritesReg s (s.writeBack rd v) rd v :=
  ⟨fun r => readReg_writeBack s rd r v, writeBack_pc s rd v, sameMem_writeBack s rd v, sameRest_writeBack s rd v⟩

/-- An instruction that ends with `v` written back completes, and what is true of `v` is true of its result. -/
theorem completes_of_writeBack {i : Instr} {s : State} {rd : Reg} {v : Word} {P : Word → Prop}
    (hexec : exec i s = .next (s.writeBack rd v)) (hv : P v) :
    Completes i s fun t => ∃ v, WritesReg s t rd v ∧ P v :=
  ⟨_, hexec, v, writesReg_writeBack s rd v, hv⟩

/-- Below bit 32 the complement is bit by bit; above it a word has no ones to give. -/
theorem getLsbD_not_or (a b : Word) {k : Nat} (hk : k < 32) :
    (~~~(a ||| b)).getLsbD k = !(a.getLsbD k || b.getLsbD k) := by
  rw [BitVec.getLsbD_not, BitVec.getLsbD_or, decide_eq_true hk, Bool.true_and]

/-- Settles O23: each instruction's word is its encoding, and what it writes back is its operation on the two source words,
which acts bit by bit. -/
theorem bitwiseResults : Obligations.BitwiseResults := by
  intro s rd rs rt
  refine ⟨⟨isWordOf_encode (.and rd rs rt), ?and⟩, ⟨isWordOf_encode (.or rd rs rt), ?or⟩,
    ⟨isWordOf_encode (.xor rd rs rt), ?xor⟩, ⟨isWordOf_encode (.nor rd rs rt), ?nor⟩⟩
  case and => exact completes_of_writeBack (exec_and s rd rs rt) fun _ _ => BitVec.getLsbD_and
  case or => exact completes_of_writeBack (exec_or s rd rs rt) fun _ _ => BitVec.getLsbD_or
  case xor => exact completes_of_writeBack (exec_xor s rd rs rt) fun _ _ => BitVec.getLsbD_xor
  case nor => exact completes_of_writeBack (exec_nor s rd rs rt) fun _ hk => getLsbD_not_or _ _ hk

end Sys2Proof.Machine
end

section
/-! PROOF. Multiplication (spec/42_muldiv.md): the product of the signed readings is the product of the words, so its low 32
bits are those of the unsigned readings too. -/

namespace Sys2Proof.Machine

/-- Arithmetic modulo 2^32 (spec/42_muldiv.md R140): the signed readings stand for the same residues as the words. -/
theorem mulLow_eq_mul (a b : Word) : mulLow a b = a * b := by
  rw [mulLow, BitVec.ofInt_mul, BitVec.ofInt_toInt, BitVec.ofInt_toInt]

theorem toNat_mulLow_signed (a b : Word) : ((mulLow a b).toNat : Int) = a.toInt * b.toInt % 2 ^ 32 := by
  rw [mulLow, BitVec.toNat_ofInt]
  exact Int.toNat_of_nonneg (Int.emod_nonneg _ (by decide))

theorem toNat_mulLow_unsigned (a b : Word) : (mulLow a b).toNat = a.toNat * b.toNat % 2 ^ 32 := by
  rw [mulLow_eq_mul, BitVec.toNat_mul]

/-- Settles O26: the word of mul is its encoding, and what it writes back is `mulLow` of the two source words, read as
signed or as unsigned. -/
theorem multiplyResult : Obligations.MultiplyResult := by
  intro s rd rs rt
  exact ⟨isWordOf_encode (.mul rd rs rt), completes_of_writeBack (exec_mul s rd rs rt)
    ⟨toNat_mulLow_signed _ _, toNat_mulLow_unsigned _ _⟩⟩

end Sys2Proof.Machine
end

section
/-! PROOF. Logical operations with an immediate (spec/43_reg_imm_arith.md): the zero-extended immediate has its own bits in
the low half and zeros in the high half, so there each operation does with the source register what it does with 0. -/

namespace Sys2Proof.Machine

variable (a : Word) (imm : Imm16) (k : Nat)

theorem getLsbD_zextImm : (zextImm imm).getLsbD k = if k < 16 then imm.getLsbD k else false := by
  rw [zextImm, BitVec.zeroExtend_eq_setWidth, BitVec.getLsbD_setWidth]
  split
  case isTrue hlow => simp [show k < 32 by omega]
  case isFalse hhigh => simp [BitVec.getLsbD_of_ge imm k (by omega)]

theorem getLsbD_or_zextImm :
    (a ||| zextImm imm).getLsbD k = if k < 16 then a.getLsbD k || imm.getLsbD k else a.getLsbD k := by
  rw [BitVec.getLsbD_or, getLsbD_zextImm, apply_ite (or (a.getLsbD k)), Bool.or_false]

theorem getLsbD_and_zextImm :
    (a &&& zextImm imm).getLsbD k = if k < 16 then a.getLsbD k && imm.getLsbD k else false := by
  rw [BitVec.getLsbD_and, getLsbD_zextImm, apply_ite (and (a.getLsbD k)), Bool.and_false]

theorem getLsbD_xor_zextImm :
    (a ^^^ zextImm imm).getLsbD k = if k < 16 then a.getLsbD k ^^ imm.getLsbD k else a.getLsbD k := by
  rw [BitVec.getLsbD_xor, getLsbD_zextImm, apply_ite (xor (a.getLsbD k)), Bool.xor_false]

end Sys2Proof.Machine

namespace Sys2Proof.Machine

/-- Settles O31: each instruction's word is its encoding, and what it writes back is its operation on the source word and
the zero-extended immediate, bit by bit. -/
theorem logicalImmediateResults : Obligations.LogicalImmediateResults := by
  intro s rt rs imm
  refine ⟨⟨isWordOf_encode (.ori rt rs imm), ?ori⟩, ⟨isWordOf_encode (.andi rt rs imm), ?andi⟩,
    ⟨isWordOf_encode (.xori rt rs imm), ?xori⟩⟩
  case ori => exact completes_of_writeBack (exec_ori s rt rs imm) fun k _ => getLsbD_or_zextImm _ imm k
  case andi => exact completes_of_writeBack (exec_andi s rt rs imm) fun k _ => getLsbD_and_zextImm _ imm k
  case xori => exact completes_of_writeBack (exec_xori s rt rs imm) fun k _ => getLsbD_xor_zextImm _ imm k

end Sys2Proof.Machine
end

section
/-! PROOF. The exception (spec/60_exceptions.md): what taking it keeps, and syscall, which does nothing else. -/

namespace Sys2Proof.Machine

variable (s : State)

theorem sameRegs_takeSyscall : SameRegs s s.takeSyscall := readReg_takeSyscall s

theorem sameMem_takeSyscall : SameMem s s.takeSyscall := by
  simp [SameMem]

theorem sameFifos_takeSyscall : SameFifos s s.takeSyscall :=
  ⟨takeSyscall_mngr2proc s, takeSyscall_proc2mngr s⟩

theorem sameSurroundings_takeSyscall : SameSurroundings s s.takeSyscall := by
  simp [SameSurroundings]

end Sys2Proof.Machine

namespace Sys2Proof.Machine

/-- Settles O42: the word of syscall is its encoding, and its next state is that of the exception taken, which writes epc,
the mode and pc whatever the mode was (spec/60_exceptions.md R232) and keeps the rest. -/
theorem syscallTakesTheException : Obligations.SyscallTakesTheException := by
  refine ⟨isWordOf_encode .syscall, fun s => ⟨s.takeSyscall, exec_syscall s, ?epc, ?epcSet, ?mode, ?pc, ?frame⟩⟩
  case epc => exact takeSyscall_epc s
  case epcSet => exact takeSyscall_epcSet s
  case mode => exact takeSyscall_mode s
  case pc => exact takeSyscall_pc s
  case frame =>
    exact ⟨sameRegs_takeSyscall s, sameMem_takeSyscall s, sameFifos_takeSyscall s, takeSyscall_statsEn s,
      sameSurroundings_takeSyscall s⟩

end Sys2Proof.Machine
end

section
/-! PROOF. Decoding and encoding (spec/30_encoding.md): the decode tree, the encoder and the opcode table name the same
words. -/

namespace Sys2Proof

theorem onlyIf_eq_some {fixed : Bool} {i j : Instr} : onlyIf fixed i = some j ↔ fixed = true ∧ i = j := by
  cases fixed <;> simp [onlyIf]

/-- A word put together from its fields, some of which are known. -/
theorem rType_eq_of_fields {w : Word} {op func : BitVec 6} {rs rt rd sa : BitVec 5}
    (h : opField w = op ∧ rsField w = rs ∧ rtField w = rt ∧ rdField w = rd ∧ saField w = sa ∧ funcField w = func) :
    rType op rs rt rd sa func = w := by
  obtain ⟨rfl, rfl, rfl, rfl, rfl, rfl⟩ := h
  exact rType_fields w

theorem iType_eq_of_fields {w : Word} {op : BitVec 6} {rs rt : BitVec 5} {imm : Imm16}
    (h : opField w = op ∧ rsField w = rs ∧ rtField w = rt ∧ immField w = imm) : iType op rs rt imm = w := by
  obtain ⟨rfl, rfl, rfl, rfl⟩ := h
  exact iType_fields w

theorem jType_eq_of_fields {w : Word} {op : BitVec 6} {target : Target}
    (h : opField w = op ∧ targetField w = target) : jType op target = w := by
  obtain ⟨rfl, rfl⟩ := h
  exact jType_fields w

theorem encode_of_decodeSpecial {w : Word} {i : Instr} (hop : opField w = 0b000000#6) (h : decodeSpecial w = some i) :
    encode i = w := by
  unfold decodeSpecial at h
  split at h
  case h_20 => cases h
  all_goals
    obtain ⟨hfixed, rfl⟩ := onlyIf_eq_some.mp h
    exact rType_eq_of_fields (by simp_all)

theorem encode_of_decodeRegimm {w : Word} {i : Instr} (hop : opField w = 0b000001#6) (h : decodeRegimm w = some i) :
    encode i = w := by
  unfold decodeRegimm at h
  split at h
  case h_3 => cases h
  all_goals
    cases h
    exact iType_eq_of_fields (by simp_all)

theorem encode_of_decodeCop0 {w : Word} {i : Instr} (hop : opField w = 0b010000#6) (h : decodeCop0 w = some i) :
    encode i = w := by
  unfold decodeCop0 at h
  split at h
  case h_3 => cases h
  all_goals
    obtain ⟨hfixed, rfl⟩ := onlyIf_eq_some.mp h
    exact rType_eq_of_fields (by simp_all)

theorem encode_of_decodeSpecial2 {w : Word} {i : Instr} (hop : opField w = 0b011100#6) (h : decodeSpecial2 w = some i) :
    encode i = w := by
  unfold decodeSpecial2 at h
  split at h
  case h_2 => cases h
  all_goals
    obtain ⟨hfixed, rfl⟩ := onlyIf_eq_some.mp h
    exact rType_eq_of_fields (by simp_all)

theorem encode_of_decodeParc {w : Word} {i : Instr} (hop : opField w = 0b100111#6) (h : decodeParc w = some i) :
    encode i = w := by
  unfold decodeParc at h
  split at h
  case h_8 => cases h
  all_goals
    obtain ⟨hfixed, rfl⟩ := onlyIf_eq_some.mp h
    exact rType_eq_of_fields (by simp_all)

/-- The encoder undoes the decode tree: a leaf is reached only by words whose fixed fields are those the encoder writes
(spec/30_encoding.md R85 to R88, D15). -/
theorem encode_of_decodeWord {w : Word} {i : Instr} (h : decodeWord w = some i) : encode i = w := by
  unfold decodeWord at h
  split at h
  case h_1 hop => exact encode_of_decodeSpecial hop h
  case h_2 hop => exact encode_of_decodeRegimm hop h
  case h_3 hop => cases h; exact jType_eq_of_fields ⟨hop, rfl⟩
  case h_4 hop => cases h; exact jType_eq_of_fields ⟨hop, rfl⟩
  case h_7 hop | h_8 hop | h_15 hop =>
    obtain ⟨hfixed, rfl⟩ := onlyIf_eq_some.mp h
    exact iType_eq_of_fields (by simp_all)
  case h_16 hop => exact encode_of_decodeCop0 hop h
  case h_17 hop => exact encode_of_decodeSpecial2 hop h
  case h_23 hop => exact encode_of_decodeParc hop h
  case h_27 => cases h
  all_goals
    cases h
    exact iType_eq_of_fields ⟨by assumption, rfl, rfl, rfl⟩

/-! ## The opcode table (R88) -/

/-- Two rows take in a common word only if their patterns agree wherever both masks fix a bit. -/
theorem patterns_agree {a b : OpcodeRow} {w : Word} (ha : a.isRowOf w = true) (hb : b.isRowOf w = true) :
    a.pattern &&& b.mask = b.pattern &&& a.mask := by
  rw [← eq_of_beq ha, ← eq_of_beq hb, BitVec.and_assoc, BitVec.and_assoc, BitVec.and_comm a.mask]

theorem opcodeRows_patterns_disagree :
    opcodeRows.Pairwise fun a b => a.pattern &&& b.mask ≠ b.pattern &&& a.mask := by
  decide

/-- The row of an instruction takes in its encoded word. -/
theorem exists_row_of_encode (i : Instr) : Laws.EncodeFitsRow.Statement i := by
  cases i with
  | mfc0 => exact Laws.EncodeFitsRow.mfc0 ..
  | mtc0 => exact Laws.EncodeFitsRow.mtc0 ..
  | addu => exact Laws.EncodeFitsRow.addu ..
  | subu => exact Laws.EncodeFitsRow.subu ..
  | and => exact Laws.EncodeFitsRow.and ..
  | or => exact Laws.EncodeFitsRow.or ..
  | xor => exact Laws.EncodeFitsRow.xor ..
  | nor => exact Laws.EncodeFitsRow.nor ..
  | slt => exact Laws.EncodeFitsRow.slt ..
  | sltu => exact Laws.EncodeFitsRow.sltu ..
  | srav => exact Laws.EncodeFitsRow.srav ..
  | srlv => exact Laws.EncodeFitsRow.srlv ..
  | sllv => exact Laws.EncodeFitsRow.sllv ..
  | mul => exact Laws.EncodeFitsRow.mul ..
  | div => exact Laws.EncodeFitsRow.div ..
  | divu => exact Laws.EncodeFitsRow.divu ..
  | rem => exact Laws.EncodeFitsRow.rem ..
  | remu => exact Laws.EncodeFitsRow.remu ..
  | addiu => exact Laws.EncodeFitsRow.addiu ..
  | lui => exact Laws.EncodeFitsRow.lui ..
  | ori => exact Laws.EncodeFitsRow.ori ..
  | andi => exact Laws.EncodeFitsRow.andi ..
  | xori => exact Laws.EncodeFitsRow.xori ..
  | slti => exact Laws.EncodeFitsRow.slti ..
  | sltiu => exact Laws.EncodeFitsRow.sltiu ..
  | sra => exact Laws.EncodeFitsRow.sra ..
  | srl => exact Laws.EncodeFitsRow.srl ..
  | sll => exact Laws.EncodeFitsRow.sll ..
  | lw => exact Laws.EncodeFitsRow.lw ..
  | lh => exact Laws.EncodeFitsRow.lh ..
  | lhu => exact Laws.EncodeFitsRow.lhu ..
  | lb => exact Laws.EncodeFitsRow.lb ..
  | lbu => exact Laws.EncodeFitsRow.lbu ..
  | sw => exact Laws.EncodeFitsRow.sw ..
  | sh => exact Laws.EncodeFitsRow.sh ..
  | sb => exact Laws.EncodeFitsRow.sb ..
  | j => exact Laws.EncodeFitsRow.j ..
  | jr => exact Laws.EncodeFitsRow.jr ..
  | jalr => exact Laws.EncodeFitsRow.jalr ..
  | jal => exact Laws.EncodeFitsRow.jal ..
  | beq => exact Laws.EncodeFitsRow.beq ..
  | bne => exact Laws.EncodeFitsRow.bne ..
  | bgtz => exact Laws.EncodeFitsRow.bgtz ..
  | bltz => exact Laws.EncodeFitsRow.bltz ..
  | bgez => exact Laws.EncodeFitsRow.bgez ..
  | blez => exact Laws.EncodeFitsRow.blez ..
  | amoAdd => exact Laws.EncodeFitsRow.amoAdd ..
  | amoAnd => exact Laws.EncodeFitsRow.amoAnd ..
  | amoOr => exact Laws.EncodeFitsRow.amoOr ..
  | sync => exact Laws.EncodeFitsRow.sync
  | syscall => exact Laws.EncodeFitsRow.syscall
  | eret => exact Laws.EncodeFitsRow.eret

/-- A word that decodes is of the row of its instruction. -/
theorem exists_row_of_decodeWord {w : Word} {i : Instr} (h : decodeWord w = some i) :
    ∃ row ∈ opcodeRows, row.mnemonic = i.mnemonic ∧ row.since = i.since ∧ row.isRowOf w = true := by
  obtain rfl := encode_of_decodeWord h
  exact exists_row_of_encode i

/-- A mask of ones keeps a field. -/
theorem and_ones_six (x : BitVec 6) : x &&& 63#6 = x := BitVec.and_allOnes

theorem and_ones_five (x : BitVec 5) : x &&& 31#5 = x := BitVec.and_allOnes

/-- A row fixes bits of each field apart. -/
theorem fields_of_isRowOf {row : OpcodeRow} {w : Word} (h : row.isRowOf w = true) :
    (opField w &&& row.mask.extractLsb' 26 6 = row.pattern.extractLsb' 26 6
      ∧ rsField w &&& row.mask.extractLsb' 21 5 = row.pattern.extractLsb' 21 5
      ∧ rtField w &&& row.mask.extractLsb' 16 5 = row.pattern.extractLsb' 16 5)
    ∧ rdField w &&& row.mask.extractLsb' 11 5 = row.pattern.extractLsb' 11 5
      ∧ saField w &&& row.mask.extractLsb' 6 5 = row.pattern.extractLsb' 6 5
      ∧ funcField w &&& row.mask.extractLsb' 0 6 = row.pattern.extractLsb' 0 6 := by
  rw [← eq_of_beq h]
  simp only [opField, rsField, rtField, rdField, saField, funcField, BitVec.extractLsb'_and, and_self]

/-- A word of a row reaches a leaf of the decode tree: the row's fixed fields choose the branch and are the zeros the leaf
asks for. -/
theorem decodeWord_isSome_of_isRowOf {row : OpcodeRow} {w : Word} (hrow : row ∈ opcodeRows) (h : row.isRowOf w = true) :
    (decodeWord w).isSome = true := by
  obtain ⟨⟨hop, hrs, hrt⟩, hrd, hsa, hfunc⟩ := fields_of_isRowOf h
  simp only [opcodeRows, List.mem_cons, List.not_mem_nil, or_false] at hrow
  repeat' rcases hrow with rfl | hrow
  all_goals
    simp only [BitVec.ofNat_eq_ofNat, BitVec.reduceExtractLsb', and_ones_six, and_ones_five] at hop hrs hrt hrd hsa hfunc
    simp [decodeWord, hop, decodeSpecial, decodeRegimm, decodeCop0, decodeSpecial2, decodeParc, onlyIf,
      hrs, hrt, hrd, hsa, hfunc]

/-- The row that takes in a word is the only one. -/
theorem row_unique {a b : OpcodeRow} {w : Word} (ha : a ∈ opcodeRows) (hb : b ∈ opcodeRows) (haw : a.isRowOf w = true)
    (hbw : b.isRowOf w = true) : a = b := by
  have : Std.Symm fun a b : OpcodeRow => a.pattern &&& b.mask ≠ b.pattern &&& a.mask := ⟨fun _ _ h => h.symm⟩
  by_contra hne
  exact opcodeRows_patterns_disagree.forall ha hb hne (patterns_agree haw hbw)

/-! ## The statements -/

/-- Settles O2: the decode tree undoes the encoder, and the bytes of a word decode as the word does. -/
theorem decodeOfEncodeIsTheInstruction : Obligations.DecodeOfEncodeIsTheInstruction := by
  intro v i hv
  have hword : decode v (encode i) = .ok i := (decode_eq_ok v _ i).mpr ⟨decodeWord_encode i, hv⟩
  refine ⟨hword, fun rest => ?_⟩
  rw [encodeBytes, decodeBytes_bytesOfWord, hword]
  rfl

/-- Settles O3: the encoder undoes the decode tree. -/
theorem encodeOfDecodeIsTheWord : Obligations.EncodeOfDecodeIsTheWord := by
  intro v w i h
  obtain ⟨hword, hv⟩ := (decode_eq_ok v w i).mp h
  exact ⟨encode_of_decodeWord hword, hv⟩

/-- Settles O4: a word of a row reaches a leaf of the tree, and a word that reaches a leaf is of the row of the leaf's
instruction, which is the only row that takes it in. -/
theorem decodeTreeAgreesWithOpcodeTable : Obligations.DecodeTreeAgreesWithOpcodeTable := by
  refine fun w => ⟨fun row hrow h => ?ofRow, fun hnone => ?ofNoRow⟩
  case ofRow =>
    obtain ⟨i, hi⟩ := Option.isSome_iff_exists.mp (decodeWord_isSome_of_isRowOf hrow h)
    obtain ⟨row', hrow', hmnemonic, hsince, h'⟩ := exists_row_of_decodeWord hi
    obtain rfl := row_unique hrow hrow' h h'
    exact ⟨i, hi, hmnemonic.symm, hsince.symm⟩
  case ofNoRow =>
    refine Option.eq_none_iff_forall_ne_some.mpr fun i hi => ?_
    obtain ⟨row, hrow, -, -, h⟩ := exists_row_of_decodeWord hi
    exact Bool.false_ne_true ((hnone row hrow).symm.trans h)

/-- Settles O5: two different rows differ in a bit that both fix. -/
theorem opcodeRowsDoNotOverlap : Obligations.OpcodeRowsDoNotOverlap :=
  fun _ _ _ ha hb => row_unique ha hb

/-- Settles O1: the decoder reads each of the words. -/
theorem writtenWordsDecode : Obligations.WrittenWordsDecode := by
  unfold Obligations.WrittenWordsDecode
  decide

end Sys2Proof
end

section
/-! PROOF. What a completed instruction and a step of the machine leave: destination, stored bytes, exception state, FIFOs
and constants, each read off the shapes that an instruction and a move can have. -/

namespace Sys2Proof.Machine

variable {s t : State} {i : Instr}

/-! ## What a completed instruction leaves -/

theorem ExecEffect.readReg_eq (h : ExecEffect i s t) {q : Reg} (hq : i.destination ≠ some q) : t.readReg q = s.readReg q := by
  have other {r : Reg} (hr : i.destination = some r) : q ≠ r := fun e => hq (e ▸ hr)
  cases h with
  | result r v hr => rw [readReg_writeBack, if_neg fun e => other hr e.1]
  | link r v t hr => rw [readReg_jumpTo, readReg_setReg, if_neg fun e => other hr e.1]
  | atomic a w r v hr => rw [readReg_writeBack, if_neg fun e => other hr e.1, readReg_storeBytes]
  | dequeue r v rest hr => rw [readReg_writeBack, if_neg fun e => other hr e.1]; rfl
  | _ => rfl

/-- Memory after an instruction: as before, or with bytes stored at the instruction's own range (spec/20_memory.md R53, R54). -/
theorem ExecEffect.stores (h : ExecEffect i s t) :
    (i.storeRange s = none ∧ t.mem = s.mem ∧ t.modified = s.modified)
      ∨ ∃ (a : Word) (bs : List Byte), i.storeRange s = some (s.paddr a, bs.length)
          ∧ t.mem = s.mem.writeBytes (s.paddr a) bs ∧ t.modified = addAddresses s.modified (s.paddr a) bs.length := by
  cases h with
  | store a bs hr => exact .inr ⟨a, bs, hr, rfl, rfl⟩
  | atomic a w r v _ hr => exact .inr ⟨a, bytesOfWord w, hr, by simp, by simp⟩
  | trap hi => subst hi; exact .inl ⟨rfl, rfl, rfl⟩
  | ret hi => subst hi; exact .inl ⟨rfl, rfl, rfl⟩
  | result r v _ hs => exact .inl ⟨hs, by simp, by simp⟩
  | link r v t _ _ hs => exact .inl ⟨hs, by simp, by simp⟩
  | dequeue r v rest _ _ hs => exact .inl ⟨hs, by simp, by simp⟩
  | jump _ _ hs | enqueue _ _ hs | stats _ hs | hold hs => exact .inl ⟨hs, rfl, rfl⟩

theorem ExecEffect.sameSurroundings (h : ExecEffect i s t) : SameSurroundings s t := by
  cases h <;> simp [SameSurroundings]

/-- Settles O15: every shape of a completed instruction writes at most its destination. -/
theorem onlyTheDestinationRegisterChanges : Obligations.OnlyTheDestinationRegisterChanges :=
  fun i s t h _ hr => (exec_effect i s t h).readReg_eq hr

/-- Settles O19: memory changes by a store of the instruction's range, which leaves every byte outside it alone. -/
theorem onlyTheStoredBytesChange : Obligations.OnlyTheStoredBytesChange := by
  intro i s t h a ha
  rcases (exec_effect i s t h).stores with ⟨-, hmem, -⟩ | ⟨b, bs, hrange, hmem, -⟩
  · rw [hmem]
  · rw [hmem, byte_writeBytes_outside _ _ _ _ (ha _ _ hrange)]

/-! ## What a step leaves -/

/-- A receive moves the head of proc2mngr, if it has one, to the end of what was received (spec/60_exceptions.md R246). -/
theorem managerReceive_eq (s : State) :
    s.managerReceive = { s with proc2mngr := s.proc2mngr.tail, received := s.received ++ s.proc2mngr.take 1 } := by
  unfold State.managerReceive
  split
  case h_1 hq => cases s; simp_all
  case h_2 hq => simp [hq]

theorem perform_sameException (s : State) (m : Move) : SameException s (s.perform m) := by
  cases m <;> simp [State.perform, SameException, managerReceive_eq]

theorem perform_constants (s : State) (m : Move) :
    (s.perform m).numcores = s.numcores ∧ (s.perform m).coreid = s.coreid ∧ (s.perform m).cfg = s.cfg := by
  cases m <;> simp [State.perform, managerReceive_eq]

/-- A step that answers a next state performs the enabled first move of the agenda, or completes the instruction that the
word at pc decodes to (spec/60_exceptions.md R250). -/
theorem step_effect (h : step s = .next t) :
    (∃ m rest, s.agenda = m :: rest ∧ s.enabled m = true ∧ t = State.perform { s with agenda := rest } m)
      ∨ ∃ rest i, s.pc.toNat % 4 = 0 ∧ decode s.cfg.version (s.mem.word (s.paddr s.pc)) = .ok i
          ∧ ExecEffect i { s with agenda := rest } t := by
  rcases step_cases h with hmove | ⟨u, i, hu, hfetch, hexec⟩
  · exact .inl hmove
  · obtain ⟨rest, rfl⟩ : ∃ rest, u = { s with agenda := rest } := by
      rcases hu with rfl | ⟨rest, -, rfl⟩
      · exact ⟨u.agenda, rfl⟩
      · exact ⟨rest, rfl⟩
    obtain ⟨-, hpc, hdecode⟩ := (fetchInstr_eq_ok _ i).mp hfetch
    exact .inr ⟨rest, i, hpc, hdecode, exec_effect _ _ _ hexec⟩

/-- Settles O54: neither a move nor an instruction writes them. -/
theorem numcoresAndCoreidAreConstant : Obligations.NumcoresAndCoreidAreConstant := by
  intro s t h
  rcases step_effect h with ⟨m, rest, -, -, rfl⟩ | ⟨rest, i, -, -, heffect⟩
  · exact perform_constants _ m
  · obtain ⟨hnumcores, hcoreid, hcfg, -, -⟩ := heffect.sameSurroundings
    exact ⟨hnumcores, hcoreid, hcfg⟩

/-- Settles O45: of the shapes of an instruction only the trap, which is syscall's, writes epc. -/
theorem onlySyscallWritesEpc : Obligations.OnlySyscallWritesEpc := by
  intro s t h
  rcases step_effect h with ⟨m, rest, -, -, rfl⟩ | ⟨rest, i, -, hdecode, heffect⟩
  · obtain ⟨hepc, hset, -⟩ := perform_sameException { s with agenda := rest } m
    exact .inl ⟨hepc, hset⟩
  · cases heffect with
    | trap hi => exact .inr ⟨rfl, rfl, rfl, hi ▸ hdecode⟩
    | _ => exact .inl (by simp)

/-- Settles O46: of the shapes of an instruction only the trap, which is syscall's, and the return, which is eret's, write
the mode. -/
theorem modeChangesOnlyBySyscallAndEret : Obligations.ModeChangesOnlyBySyscallAndEret := by
  intro s t h hmode
  rcases step_effect h with ⟨m, rest, -, -, rfl⟩ | ⟨rest, i, -, hdecode, heffect⟩
  · obtain ⟨-, -, hsame⟩ := perform_sameException { s with agenda := rest } m
    exact absurd hsame hmode
  · cases heffect with
    | trap hi => exact .inl ⟨rfl, hi ▸ hdecode⟩
    | ret hi => exact .inr ⟨rfl, hi ▸ hdecode⟩
    | _ => exact absurd (by simp) hmode

/-- Settles O52: an item is appended to proc2mngr by the core, or moved from its head to the end of what was received. -/
theorem itemsReachTheManagerInOrder : Obligations.ItemsReachTheManagerInOrder := by
  intro s t h
  rcases step_effect h with ⟨m, rest, -, -, rfl⟩ | ⟨rest, i, -, -, heffect⟩
  · left
    cases m with
    | receive => simp [State.perform, managerReceive_eq, ← List.drop_one]
    | _ => rfl
  · cases heffect with
    | enqueue r => exact .inr ⟨r, (List.append_assoc ..).symm⟩
    | _ => exact .inl (by simp)

/-- Settles O53: mngr2proc gains an item by the manager's send and loses its head by the core's dequeue. -/
theorem managerItemsAreReadInOrder : Obligations.ManagerItemsAreReadInOrder := by
  intro s t h
  rcases step_effect h with ⟨m, rest, hagenda, -, rfl⟩ | ⟨rest, i, -, -, heffect⟩
  · cases m with
    | send v => exact .inr (.inr ⟨v, rest, hagenda, rfl⟩)
    | receive => exact .inl (by simp [State.perform, managerReceive_eq])
    | _ => exact .inl rfl
  · cases heffect with
    | dequeue r v items _ hq => exact .inr (.inl ⟨v, by simpa using hq⟩)
    | _ => exact .inl (by simp)

end Sys2Proof.Machine
end

section
/-! PROOF. The invariant (spec/10_state.md, spec/20_memory.md): every operation that an instruction or a move is made of
keeps it, so every step does. -/

namespace Sys2Proof.Machine

variable {s t : State}

/-! ## Accesses in physical memory -/

theorem cfg_wf_iff (p : Config.Params) :
    p.wf = true ↔ (13 ≤ p.paddrBits ∧ p.paddrBits ≤ 32) ∧ p.fifoDepth.all (1 ≤ ·) = true := by
  simp [Config.Params.wf]

/-- A multiple of 4 among the addresses is one in every legal physical memory, whose size is one too. -/
theorem four_dvd_size (h : s.cfg.wf = true) : 4 ∣ 2 ^ s.cfg.paddrBits := by
  obtain ⟨⟨hmin, -⟩, -⟩ := (cfg_wf_iff s.cfg).mp h
  exact pow_dvd_pow 2 (show 2 ≤ s.cfg.paddrBits by omega)

theorem paddr_mod (h : s.cfg.wf = true) (a : Word) {n : Nat} (hn : n ∣ 4) : s.paddr a % n = a.toNat % n :=
  Nat.mod_mod_of_dvd _ (hn.trans (four_dvd_size h))

/-- An aligned access does not reach beyond physical memory (spec/20_memory.md R55, R56). -/
theorem paddr_add_size_le (h : s.cfg.wf = true) {a : Word} {n : Nat} (hn : n ∣ 4) (ha : a.toNat % n = 0) :
    s.paddr a + n ≤ 2 ^ s.cfg.paddrBits := by
  obtain ⟨q, hq⟩ := Nat.dvd_of_mod_eq_zero ((paddr_mod h a hn).trans ha)
  obtain ⟨r, hr⟩ := hn.trans (four_dvd_size h)
  have hlt : n * q < n * r := hq ▸ hr ▸ paddr_lt s a
  rw [hq, hr]
  exact Nat.mul_le_mul_left n (Nat.lt_of_mul_lt_mul_left hlt)

/-! ## Operations that keep the invariant -/

/-- A write to a register keeps slot 0 and touches no other part of the state. -/
theorem State.Inv.setReg (h : s.Inv) (r : Reg) (v : Word) : (s.setReg r v).Inv where
  cfgWf := by simpa using h.cfgWf
  zeroReg := setReg_slot_zero s r v h.zeroReg
  memWf := by simpa using h.memWf
  memRange := by simpa using h.memRange
  modifiedWf := by simpa using h.modifiedWf
  modifiedListed := by simpa using h.modifiedListed
  pcAligned := by simpa using h.pcAligned
  epcAligned := by simpa using h.epcAligned
  mngr2procFits := by simpa using h.mngr2procFits
  proc2mngrFits := by simpa using h.proc2mngrFits
  hasCore := by simpa using h.hasCore
  oneCore := by simpa using h.oneCore
  idInRange := by simpa using h.idInRange

theorem State.Inv.jumpTo (h : s.Inv) {t : Word} (ht : t.toNat % 4 = 0) : (s.jumpTo t).Inv :=
  { h with pcAligned := ht }

theorem State.Inv.advance (h : s.Inv) : s.advance.Inv := h.jumpTo (nextPc_aligned s h.pcAligned)

theorem State.Inv.writeBack (h : s.Inv) (r : Reg) (v : Word) : (s.writeBack r v).Inv := (h.setReg r v).advance

theorem State.Inv.takeSyscall (h : s.Inv) : s.takeSyscall.Inv :=
  { h with pcAligned := by simp, epcAligned := h.pcAligned }

theorem State.Inv.returnFromException (h : s.Inv) : s.returnFromException.Inv :=
  { h with pcAligned := h.epcAligned }

theorem State.Inv.withStatsEn (h : s.Inv) (v : Word) : State.Inv { s with statsEn := v } := { h with }

theorem State.Inv.withAgenda (h : s.Inv) (rest : List Move) : State.Inv { s with agenda := rest } := { h with }

/-- The FIFO bound R8 puts on a queue that loses items. -/
theorem fits_of_length_le {d : Option Nat} {q q' : List Word} (h : d.all (q.length ≤ ·) = true)
    (hq : q'.length ≤ q.length) : d.all (q'.length ≤ ·) = true := by
  cases d with
  | none => rfl
  | some d =>
    simp only [Option.all_some, decide_eq_true_eq] at h ⊢
    exact hq.trans h

/-- A queue with room for one more keeps the bound with one more (spec/10_state.md R32, D19). -/
theorem fits_append_of_hasRoom {q : List Word} (h : s.hasRoom q = true) (v : Word) :
    s.cfg.fifoDepth.all ((q ++ [v]).length ≤ ·) = true := by
  unfold State.hasRoom at h
  cases hd : s.cfg.fifoDepth with
  | none => rfl
  | some d =>
    simp only [hd, Option.all_some, decide_eq_true_eq] at h
    simpa using h

/-- An aligned store stays within physical memory, and lists every byte that comes to count as stored to (R53, R66). -/
theorem State.Inv.storeBytes (h : s.Inv) {a : Word} {bs : List Byte} (hl : bs.length ∣ 4)
    (ha : a.toNat % bs.length = 0) : (s.storeBytes (s.paddr a) bs).Inv :=
  { h with
    memWf := wf_writeBytes _ _ _ h.memWf
    memRange := fun c hc => by
      have hle := paddr_add_size_le h.cfgWf hl ha
      rcases mem_writeBytes _ _ _ _ hc with hc | hc
      · exact h.memRange c hc
      · exact Nat.lt_of_lt_of_le hc.2 hle
    modifiedWf := wf_addAddresses _ _ _ h.modifiedWf
    modifiedListed := fun c hc => by
      rw [storeBytes_mem, byte?_isSome_writeBytes]
      rcases (mem_addAddresses _ _ _ _).mp hc with hc | ⟨hlo, hhi⟩
      · simp [h.modifiedListed c hc]
      · simp [hlo, hhi] }

theorem ExecEffect.keeps_inv {i : Instr} (h : ExecEffect i s t) (hs : s.Inv) : t.Inv := by
  cases h with
  | result r v => exact hs.writeBack r v
  | jump t ht => exact hs.jumpTo (ht hs.pcAligned)
  | link r v t _ ht => exact (hs.setReg r v).jumpTo (ht hs.pcAligned)
  | store a bs _ ha hl => exact (hs.storeBytes (by rcases hl with e | e | e <;> rw [e] <;> decide) ha).advance
  | atomic a w r v _ _ ha => exact (hs.storeBytes (bs := bytesOfWord w) (dvd_refl 4) ha).writeBack r v
  | dequeue r v rest _ hq =>
    have hrest : State.Inv { s with mngr2proc := rest } :=
      { hs with mngr2procFits := fits_of_length_le hs.mngr2procFits (by simp [hq]) }
    exact hrest.writeBack r v
  | enqueue r hroom => exact State.Inv.advance { hs with proc2mngrFits := fits_append_of_hasRoom hroom _ }
  | stats r => exact (hs.withStatsEn _).advance
  | trap => exact hs.takeSyscall
  | ret => exact hs.returnFromException
  | hold => exact hs

/-- A move that can take place keeps the invariant: the manager sends only where there is room, and another core stores only
at aligned addresses (spec/60_exceptions.md R246, R249). -/
theorem perform_keeps_inv {m : Move} (hm : s.enabled m = true) (hs : s.Inv) : (s.perform m).Inv := by
  cases m with
  | core => exact hs
  | send v => exact { hs with mngr2procFits := fits_append_of_hasRoom hm v }
  | receive =>
    rw [State.perform, managerReceive_eq]
    exact { hs with proc2mngrFits := fits_of_length_le hs.proc2mngrFits (by simp) }
  | remoteWord a v =>
    obtain ⟨-, ha⟩ : _ ∧ aligned a 4 = true := by simpa [State.enabled] using hm
    exact hs.storeBytes (bs := bytesOfWord v) (dvd_refl 4) ((aligned_iff a 4).mp ha)
  | remoteHalf a v =>
    obtain ⟨-, ha⟩ : _ ∧ aligned a 2 = true := by simpa [State.enabled] using hm
    exact hs.storeBytes (bs := bytesOfHalf v) (show 2 ∣ 4 by decide) ((aligned_iff a 2).mp ha)
  | remoteByte a v => exact hs.storeBytes (bs := [v]) (one_dvd 4) (Nat.mod_one _)

/-- Settles O10: a step is an enabled move or a completed instruction, and both keep the invariant. -/
theorem everyStepKeepsInv : Obligations.EveryStepKeepsInv := by
  intro s t hs h
  rcases step_effect h with ⟨m, rest, -, hm, rfl⟩ | ⟨rest, i, -, -, heffect⟩
  · exact perform_keeps_inv (s := { s with agenda := rest }) (by cases m <;> exact hm) (hs.withAgenda rest)
  · exact heffect.keeps_inv (hs.withAgenda rest)

end Sys2Proof.Machine
end

section
/-! PROOF. The step of the core (spec/60_exceptions.md R250, spec/20_memory.md R60, R66): when it faults before any
instruction runs, when it is exec of the word at pc, and the moves of the other agents. -/

namespace Sys2Proof.Machine

variable {s t : State}

/-! ## Fetching -/

theorem fetchInstr_of_modified (h : ∃ a ∈ s.modified, s.paddr s.pc ≤ a ∧ a < s.paddr s.pc + 4) :
    s.fetchInstr = .error .fetchOfModifiedCode := by
  obtain ⟨a, ha, hin⟩ := h
  have hany : (s.modified.any fun a => s.paddr s.pc ≤ a && a < s.paddr s.pc + 4) = true :=
    List.any_eq_true.mpr ⟨a, ha, by simpa using hin⟩
  rw [State.fetchInstr, State.fetch, if_pos hany]

/-- A word at an aligned pc, no byte of which was stored to, is fetched; if it is no instruction of the machine it faults. -/
theorem fetchInstr_of_undefined (hmod : ∀ a ∈ s.modified, a < s.paddr s.pc ∨ s.paddr s.pc + 4 ≤ a)
    (hpc : s.pc.toNat % 4 = 0) (h : ∀ i, decode s.cfg.version (s.mem.word (s.paddr s.pc)) ≠ .ok i) :
    s.fetchInstr = .error .undefinedInstruction := by
  have hany : ¬(s.modified.any fun a => s.paddr s.pc ≤ a && a < s.paddr s.pc + 4) = true := by
    simp only [List.any_eq_true, Bool.and_eq_true, decide_eq_true_eq, not_exists, not_and, Nat.not_lt]
    intro a ha hle
    rcases hmod a ha with hlt | hge
    · omega
    · exact hge
  rw [State.fetchInstr, State.fetch, if_neg hany, State.loadWord, ifAligned_of_aligned _ hpc]
  cases hd : decode s.cfg.version (s.mem.word (s.paddr s.pc)) with
  | ok i => exact absurd hd (h i)
  | error e => simp [hd]

/-- Settles O6: if the word decoded, it would be of the row of its instruction, which would be of the machine's version. -/
theorem undefinedWordsFault : Obligations.UndefinedWordsFault := by
  intro s hturn hpc hmod hrows
  refine step_eq_fault_of_fetch hturn (fetchInstr_of_undefined hmod hpc fun i hi => ?_)
  obtain ⟨hword, hversion⟩ := (decode_eq_ok _ _ i).mp hi
  obtain ⟨row, hrow, -, hsince, hrowOf⟩ := exists_row_of_decodeWord hword
  have hlater := hrows row hrow hrowOf
  rw [hsince] at hlater
  simp only [Instr.wellFormed, Config.Version.le, decide_eq_true_eq] at hversion
  omega

/-- Settles O13: the check of stored-to bytes comes first in a fetch, and an instruction marks exactly its store range. -/
theorem fetchOfModifiedCodeFaults : Obligations.FetchOfModifiedCodeFaults := by
  refine ⟨fun s hturn h => step_eq_fault_of_fetch hturn (fetchInstr_of_modified h), fun i s t h a => ?_⟩
  rcases (exec_effect i s t h).stores with ⟨hrange, -, hmod⟩ | ⟨b, bs, hrange, -, hmod⟩
  · simp [hrange, hmod]
  · simp only [hrange, hmod, mem_addAddresses, Option.some.injEq, Prod.mk.injEq]
    constructor
    · rintro (h | h)
      · exact .inl h
      · exact .inr ⟨_, _, ⟨rfl, rfl⟩, h⟩
    · rintro (h | ⟨_, _, ⟨rfl, rfl⟩, h⟩)
      · exact .inl h
      · exact .inr h

/-! ## Whose turn it is -/

theorem coreStep_eq_exec {i : Instr} (hpc : s.pc.toNat % 4 = 0)
    (hmod : ∀ a ∈ s.modified, a < s.paddr s.pc ∨ s.paddr s.pc + 4 ≤ a)
    (h : decode s.cfg.version (s.mem.word (s.paddr s.pc)) = .ok i) : coreStep s = exec i s := by
  rw [coreStep, (fetchInstr_eq_ok s i).mpr ⟨hmod, hpc, h⟩]

theorem step_of_agenda_nil (h : s.agenda = []) : step s = coreStep s := by
  simp [step, State.turn, h]

theorem step_of_agenda_core {rest : List Move} (h : s.agenda = .core :: rest) :
    step s = coreStep { s with agenda := rest } := by
  simp [step, State.turn, h]

theorem step_of_disabled {m : Move} {rest : List Move} (h : s.agenda = m :: rest) (hm : m ≠ .core)
    (he : s.enabled m = false) : step s = coreStep s := by
  cases m with
  | core => exact absurd rfl hm
  | _ => simp [step, State.turn, h, he]

theorem step_of_enabled {m : Move} {rest : List Move} (h : s.agenda = m :: rest) (he : s.enabled m = true) :
    step s = .next (State.perform { s with agenda := rest } m) := by
  cases m with
  | core => cases he
  | _ => simp [step, State.turn, h, he]

/-- Settles O11: the three ways it can be the core's turn, and the word at pc is the same in each. -/
theorem stepRunsTheDecodedInstruction : Obligations.StepRunsTheDecodedInstruction := by
  intro s i hpc hmod hdecode
  refine ⟨fun h => ?none, fun rest h => ?core, fun m rest h hm he => ?disabled⟩
  case none => rw [step_of_agenda_nil h, coreStep_eq_exec hpc hmod hdecode]
  case core => rw [step_of_agenda_core h, coreStep_eq_exec (s := { s with agenda := rest }) hpc hmod hdecode]
  case disabled => rw [step_of_disabled h hm he, coreStep_eq_exec hpc hmod hdecode]

/-! ## Moves of other agents -/

theorem hasRoom_of_length_lt {q : List Word} (h : ∀ d, s.cfg.fifoDepth = some d → q.length < d) : s.hasRoom q = true := by
  unfold State.hasRoom
  cases hd : s.cfg.fifoDepth with
  | none => rfl
  | some d => simpa using h d hd

/-- Settles O51: a send and a receive that can take place are the next step. -/
theorem managerMoves : Obligations.ManagerMoves := by
  refine fun s rest => ⟨fun v h hroom => ?send, fun v items h hq => ?receive⟩
  case send => exact step_of_enabled h (hasRoom_of_length_lt hroom)
  case receive =>
    have henabled : s.enabled .receive = true := by simp [State.enabled, hq]
    rw [step_of_enabled h henabled, State.perform, managerReceive_eq]
    simp [hq]

/-- What a store leaves of memory (spec/20_memory.md R53, R66). -/
theorem sameMemOutside_storeBytes (s : State) (p : Nat) (bs : List Byte) : SameMemOutside s (s.storeBytes p bs) p bs.length :=
  ⟨fun a ha => byte_writeBytes_outside bs s.mem p a ha, fun a => mem_addAddresses bs.length s.modified p a⟩

theorem byte_storeBytes (s : State) (p : Nat) (bs : List Byte) {k : Nat} (hk : k < bs.length) :
    (s.storeBytes p bs).mem.byte (p + k) = bs[k] := by
  rw [storeBytes_mem, byte_writeBytes, dif_pos ⟨Nat.le_add_right p k, Nat.add_lt_add_left hk p⟩]
  simp only [Nat.add_sub_cancel_left]

theorem getElem_bytesOfWord (w : Word) {k : Nat} (hk : k < 4) : (bytesOfWord w)[k] = w.extractLsb' (8 * k) 8 := by
  interval_cases k <;> rfl

theorem getElem_bytesOfHalf (h : Half) {k : Nat} (hk : k < 2) : (bytesOfHalf h)[k] = h.extractLsb' (8 * k) 8 := by
  interval_cases k <;> rfl

theorem remoteStores_storeBytes (s : State) (rest : List Move) (p : Nat) (bs : List Byte) :
    RemoteStores s (State.storeBytes { s with agenda := rest } p bs) rest p bs.length :=
  ⟨fun _ => rfl, rfl, ⟨rfl, rfl, rfl⟩, ⟨rfl, rfl⟩, rfl, rfl, rfl, rfl, rfl, rfl, sameMemOutside_storeBytes _ p bs⟩

/-- Settles O55: the move stores the bytes of its value and takes itself off the agenda. -/
theorem remoteStoresReachOnlyMemory : Obligations.RemoteStoresReachOnlyMemory := by
  refine fun s rest a hcores => ⟨fun v h ha => ?word, fun v h ha => ?half, fun v h => ?byte⟩
  case word =>
    have henabled : s.enabled (.remoteWord a v) = true := by simp [State.enabled, hcores, ha]
    refine ⟨_, step_of_enabled h henabled, remoteStores_storeBytes s rest _ (bytesOfWord v), ?_⟩
    exact fun k hk => (byte_storeBytes _ _ (bytesOfWord v) hk).trans (getElem_bytesOfWord v hk)
  case half =>
    have henabled : s.enabled (.remoteHalf a v) = true := by simp [State.enabled, hcores, ha]
    refine ⟨_, step_of_enabled h henabled, remoteStores_storeBytes s rest _ (bytesOfHalf v), ?_⟩
    exact fun k hk => (byte_storeBytes _ _ (bytesOfHalf v) hk).trans (getElem_bytesOfHalf v hk)
  case byte =>
    have henabled : s.enabled (.remoteByte a v) = true := by simp [State.enabled, hcores]
    refine ⟨_, step_of_enabled h henabled, remoteStores_storeBytes s rest _ [v], ?_⟩
    exact byte_storeBytes _ _ [v] Nat.one_pos

/-! ## A word placed to be fetched -/

theorem tableWord_toNat (w : Word) : tableWord 32 w.toNat = w := by
  rw [tableWord, Nat.mod_eq_of_lt w.isLt, BitVec.ofNat_toNat, BitVec.setWidth_eq]

/-- The mask of a placed pc clears its low two bits. -/
theorem toNat_and_mask (a : Word) : (a &&& 0xFFFFFFFC).toNat = a.toNat / 4 * 4 := by
  have hshift : (a &&& 0xFFFFFFFC : Word) = a >>> 2 <<< 2 := by
    apply BitVec.eq_of_getLsbD_eq
    intro k hk
    simp only [BitVec.getLsbD_and, BitVec.getLsbD_shiftLeft, BitVec.getLsbD_ushiftRight]
    interval_cases k <;> simp
  have := a.isLt
  rw [hshift, BitVec.toNat_shiftLeft, BitVec.toNat_ushiftRight, Nat.shiftLeft_eq, Nat.shiftRight_eq_div_pow]
  omega

/-- The machine with the instruction placed fetches it: pc is aligned, its bytes count as stored to no longer, and the word
there is the instruction's (spec/20_memory.md R60, R66). -/
theorem step_placeWord {i : Instr} (s : State) (hv : i.wellFormed s.cfg.version = true) :
    step (s.placeWord (encode i)) = exec i (s.placeWord (encode i)) := by
  rw [step_of_agenda_nil rfl]
  refine coreStep_eq_exec ?aligned ?unmodified ?decodes
  case aligned =>
    have := toNat_and_mask s.pc
    simp only [State.placeWord]
    omega
  case unmodified =>
    intro a ha
    have hout := (List.mem_filter.mp ha).2
    simp only [Bool.or_eq_true, decide_eq_true_eq] at hout
    exact hout
  case decodes =>
    have hword : (s.placeWord (encode i)).mem.word ((s.placeWord (encode i)).paddr (s.placeWord (encode i)).pc) = encode i :=
      word_writeBytes _ _ _
    rw [hword]
    exact (decode_eq_ok _ _ _).mpr ⟨decodeWord_encode i, hv⟩

/-- Settles O12: the placing writes the four bytes of the word and clears the low bits of pc. -/
theorem placedWordIsRunNext : Obligations.PlacedWordIsRunNext := by
  intro s i hv
  rw [State.withFetchWord, tableWord_toNat]
  refine ⟨step_placeWord s hv, fun _ => rfl, fun hpc => ?_, fun a ha => byte_writeBytes_outside _ _ _ _ ha⟩
  have := toNat_and_mask s.pc
  exact BitVec.eq_of_toNat_eq (show (s.pc &&& 0xFFFFFFFC).toNat = s.pc.toNat by omega)

end Sys2Proof.Machine
end

section
/-! PROOF. Reset (spec/10_state.md R40, spec/70_reset_and_hazards.md R260, R263): what the machine holds, that the invariant
starts there, and the first step. -/

namespace Sys2Proof.Machine

variable {p : Config.Params} {image : Image}

/-- Settles O8: by the fields of the reset state. -/
theorem resetValues : Obligations.ResetValues :=
  ⟨rfl, rfl, rfl, rfl, rfl, rfl, rfl, rfl⟩

/-- Settles O58: nothing but memory depends on IMAGE, and loading keeps memory canonical and within the image's range. -/
theorem everyResetMeetsInv : Obligations.EveryResetMeetsInv := by
  intro p numcores coreid image hp himage hcore hone hid
  obtain ⟨-, hrange⟩ := (image_wf_iff image _).mp himage
  exact {
    cfgWf := hp
    zeroReg := by simp [State.reset]
    memWf := wf_load image [] List.Pairwise.nil
    memRange := fun c hc => hrange c ((mem_load image [] c hc).resolve_left List.not_mem_nil)
    modifiedWf := List.Pairwise.nil
    modifiedListed := fun _ ha => absurd ha List.not_mem_nil
    pcAligned := by simp
    epcAligned := by simp [State.reset]
    mngr2procFits := by cases h : p.fifoDepth <;> simp [h]
    proc2mngrFits := by cases h : p.fifoDepth <;> simp [h]
    hasCore := hcore
    oneCore := hone
    idInRange := hid }

/-- Settles O9: it is the reset with one core and nothing loaded. -/
theorem resetMeetsInv : Obligations.ResetMeetsInv :=
  everyResetMeetsInv Config.Params.atReset 1 0 [] (by decide) (by decide) (by decide) (fun _ => rfl) (by decide)

/-- Settles O57: loading places every byte of IMAGE and no other. -/
theorem resetHoldsTheImage : Obligations.ResetHoldsTheImage := by
  rintro p numcores coreid image s himage rfl
  obtain ⟨hnodup, -⟩ := (image_wf_iff image _).mp himage
  refine ⟨fun a b hab => ?inside, fun a ha => ?outside, rfl, rfl, rfl, rfl, rfl, rfl, rfl, rfl, rfl, rfl⟩
  case inside =>
    rw [resetWith_mem, Memory.byte, byte?_load_inside image [] hnodup _ hab, Option.getD_some]
  case outside =>
    have hnot : a ∉ image.map (·.1) := by simpa using ha
    have hnone : (Memory.load [] image).byte? a = none := byte?_load_outside image [] a hnot
    exact ⟨hnone, by rw [resetWith_mem, Memory.byte, hnone, Option.getD_none]⟩

/-- Settles O59: pc is at the first word of IMAGE, whose address every physical memory has. -/
theorem firstWordOfTheImageRunsFirst : Obligations.FirstWordOfTheImageRunsFirst := by
  intro p numcores coreid i ws hp hv
  obtain ⟨⟨hmin, -⟩, -⟩ := (cfg_wf_iff p).mp hp
  have haddr : (0x1000 : Nat) % 2 ^ p.paddrBits = 0x1000 :=
    Nat.mod_eq_of_lt (lt_of_lt_of_le (by decide : 0x1000 < 2 ^ 13) (Nat.pow_le_pow_right (by decide) hmin))
  rw [step_of_agenda_nil rfl]
  refine coreStep_eq_exec (by simp) (fun a ha => absurd ha List.not_mem_nil) ?_
  refine (decode_eq_ok _ _ _).mpr ⟨?_, hv⟩
  simp [State.paddr, haddr, word_load_imageOfWords, decodeWord_encode]

end Sys2Proof.Machine
end

section
/-! PROOF. The mode (spec/10_state.md R27, spec/60_exceptions.md R240): every operation commutes with a change of the mode,
or sets it. -/

namespace Sys2Proof.Machine

/-- The state in another mode. -/
def State.withMode (s : State) (m : Mode) : State := { s with mode := m }

/-- What a coprocessor access answers, changed by `f`; how it ends stays. -/
def Cp0Access.map {α β : Type} (f : α → β) : Cp0Access α → Cp0Access β
  | .done a => .done (f a)
  | .hold => .hold
  | .fault e => .fault e

variable (s : State) (m : Mode)

theorem withMode_mngr2proc : (s.withMode m).mngr2proc = s.mngr2proc := rfl
theorem withMode_proc2mngr : (s.withMode m).proc2mngr = s.proc2mngr := rfl
theorem withMode_cfg : (s.withMode m).cfg = s.cfg := rfl
theorem withMode_hasRoom (q : List Word) : (s.withMode m).hasRoom q = s.hasRoom q := rfl
theorem withMode_hasVersion (v : Config.Version) : (s.withMode m).hasVersion v = s.hasVersion v := rfl
theorem withMode_epcReadable : (s.withMode m).epcReadable = s.epcReadable := rfl
theorem withMode_readReg (r : Reg) : (s.withMode m).readReg r = s.readReg r := rfl
theorem withMode_fetchInstr : (s.withMode m).fetchInstr = s.fetchInstr := rfl

theorem enabled_withMode (mv : Move) : (s.withMode m).enabled mv = s.enabled mv := by
  cases mv <;> rfl

theorem setReg_withMode (r : Reg) (v : Word) : (s.withMode m).setReg r v = (s.setReg r v).withMode m := by
  unfold State.setReg
  split <;> rfl

/-! ## Ends of an instruction, but for the mode -/

theorem forgetMode_writeBack (r : Reg) (v : Word) :
    forgetMode (.next ((s.withMode m).writeBack r v)) = forgetMode (.next (s.writeBack r v)) := by
  rw [State.writeBack, setReg_withMode]
  rfl

theorem forgetMode_link (r : Reg) (v t : Word) :
    forgetMode (.next (((s.withMode m).setReg r v).jumpTo t)) = forgetMode (.next ((s.setReg r v).jumpTo t)) := by
  rw [setReg_withMode]
  rfl

theorem forgetMode_complete {α : Type} (x : Except Fault α) {k k' : α → State}
    (h : ∀ a, forgetMode (.next (k a)) = forgetMode (.next (k' a))) :
    forgetMode (complete x k) = forgetMode (complete x k') := by
  cases x with
  | ok a => exact h a
  | error f => rfl

theorem forgetMode_store (a : Word) (n p : Nat) (bs : List Byte) :
    forgetMode (complete (ifAligned a n ((s.withMode m).storeBytes p bs)) State.advance)
      = forgetMode (complete (ifAligned a n (s.storeBytes p bs)) State.advance) := by
  unfold ifAligned
  split <;> rfl

theorem forgetMode_fetchAndOp (rd rs rt : Reg) (op : Word → Word → Word) :
    forgetMode ((s.withMode m).fetchAndOp rd rs rt op) = forgetMode (s.fetchAndOp rd rs rt op) :=
  forgetMode_complete (s.loadWord (s.readReg rs)) fun temp =>
    forgetMode_writeBack (s.storeBytes (s.paddr (s.readReg rs)) (bytesOfWord (op temp (s.readReg rt)))) m rd temp

theorem forgetMode_finish {α : Type} (x : Cp0Access α) (f : α → α) {k : α → State}
    (h : ∀ a, forgetMode (.next (k (f a))) = forgetMode (.next (k a))) :
    forgetMode ((s.withMode m).finish (x.map f) k) = forgetMode (s.finish x k) := by
  cases x with
  | done a => exact h a
  | hold => rfl
  | fault e => rfl

theorem dequeueMngr_withMode :
    (s.withMode m).dequeueMngr = s.dequeueMngr.map fun read => (read.1, read.2.withMode m) := by
  unfold State.dequeueMngr
  rw [withMode_mngr2proc]
  cases s.mngr2proc <;> rfl

theorem enqueueProc_withMode (v : Word) : (s.withMode m).enqueueProc v = (s.enqueueProc v).map fun t => t.withMode m := by
  unfold State.enqueueProc
  rw [withMode_proc2mngr, withMode_hasRoom]
  cases s.hasRoom s.proc2mngr <;> rfl

theorem readStatsEn_withMode :
    (s.withMode m).readStatsEn = s.readStatsEn.map fun read => (read.1, read.2.withMode m) := by
  unfold State.readStatsEn
  rw [withMode_cfg]
  cases s.cfg.statsRead <;> rfl

theorem fromVersion_withMode {α : Type} (v : Config.Version) (x : Cp0Access α) (f : α → α) :
    (s.withMode m).fromVersion v (x.map f) = (s.fromVersion v x).map f := by
  unfold State.fromVersion
  rw [withMode_hasVersion]
  cases s.hasVersion v <;> rfl

theorem cp0Read_withMode (n : CpReg) :
    (s.withMode m).cp0Read n = (s.cp0Read n).map fun read => (read.1, read.2.withMode m) := by
  unfold State.cp0Read
  split
  case h_1 => exact dequeueMngr_withMode s m
  case h_2 | h_3 => rw [← fromVersion_withMode]; rfl
  case h_4 => rw [readStatsEn_withMode, fromVersion_withMode]
  case h_5 => rfl

theorem cp0Write_withMode (n : CpReg) (v : Word) :
    (s.withMode m).cp0Write n v = (s.cp0Write n v).map fun t => t.withMode m := by
  unfold State.cp0Write
  split
  case h_1 => exact enqueueProc_withMode s m v
  case h_2 => rw [← fromVersion_withMode]; rfl
  case h_3 => rfl

/-! ## Instructions and steps, but for the mode -/

theorem forgetMode_exec (i : Instr) : forgetMode (exec i (s.withMode m)) = forgetMode (exec i s) := by
  cases i with
  | mfc0 rt rd =>
    rw [exec_mfc0, execMfc0, cp0Read_withMode]
    exact forgetMode_finish s m _ _ fun read => forgetMode_writeBack read.2 m rt read.1
  | mtc0 rt rd =>
    rw [exec_mtc0, execMtc0, cp0Write_withMode]
    exact forgetMode_finish s m _ _ fun _ => rfl
  | lw rt rs imm => exact forgetMode_complete (s.loadWord _) fun _ => forgetMode_writeBack s m rt _
  | lh rt rs imm => exact forgetMode_complete (s.loadHalf _) fun _ => forgetMode_writeBack s m rt _
  | lhu rt rs imm => exact forgetMode_complete (s.loadHalf _) fun _ => forgetMode_writeBack s m rt _
  | sw | sh => exact forgetMode_store s m ..
  | amoAdd | amoAnd | amoOr => exact forgetMode_fetchAndOp s m ..
  | jal target => exact forgetMode_link s m ..
  | jr rs =>
    rw [exec_jr, exec_jr, execJr, execJr, withMode_readReg]
    cases aligned (s.readReg rs) 4 <;> rfl
  | jalr rd rs =>
    rw [exec_jalr, exec_jalr, execJalr, execJalr, withMode_readReg]
    by_cases hrd : rd = rs
    · rw [if_pos hrd, if_pos hrd]
    · rw [if_neg hrd, if_neg hrd]
      cases aligned (s.readReg rs) 4
      · rfl
      · exact forgetMode_link s m ..
  | eret =>
    rw [exec_eret, exec_eret, execEret, execEret, withMode_epcReadable]
    cases s.epcReadable <;> rfl
  | sb | j | beq | bne | bgtz | bltz | bgez | blez | sync | syscall => rfl
  | _ => exact forgetMode_writeBack s m ..

theorem forgetMode_coreStep : forgetMode (coreStep (s.withMode m)) = forgetMode (coreStep s) := by
  unfold coreStep
  rw [withMode_fetchInstr]
  cases s.fetchInstr with
  | error f => rfl
  | ok i => exact forgetMode_exec s m i

theorem perform_withMode (mv : Move) : (s.withMode m).perform mv = (s.perform mv).withMode m := by
  cases mv with
  | receive => simp only [State.perform, managerReceive_eq]; rfl
  | _ => rfl

/-- Settles O47: neither a move of another agent nor the fetch reads the mode, and no instruction does. -/
theorem modeIsReadByNothing : Obligations.ModeIsReadByNothing := by
  intro s m
  change forgetMode (step (s.withMode m)) = _
  cases hagenda : s.agenda with
  | nil =>
    rw [step_of_agenda_nil (s := s.withMode m) hagenda, step_of_agenda_nil hagenda, forgetMode_coreStep]
  | cons mv rest =>
    by_cases hcore : mv = .core
    · subst hcore
      rw [step_of_agenda_core (s := s.withMode m) hagenda, step_of_agenda_core hagenda]
      exact forgetMode_coreStep { s with agenda := rest } m
    · have hsame := enabled_withMode s m mv
      cases he : s.enabled mv with
      | true =>
        rw [step_of_enabled (s := s.withMode m) hagenda (hsame.trans he), step_of_enabled hagenda he]
        have hcommutes := perform_withMode { s with agenda := rest } m mv
        exact (congrArg (fun t => forgetMode (.next t)) hcommutes :)
      | false =>
        rw [step_of_disabled (s := s.withMode m) hagenda hcore (hsame.trans he), step_of_disabled hagenda hcore he,
          forgetMode_coreStep]

end Sys2Proof.Machine
end

section
/-! PROOF. Faults (spec/60_exceptions.md R234, spec/93_implementation_defined.md section 2): how each end of an instruction
can fault. -/

namespace Sys2Proof.Machine

/-- The outcome is no refusal, and no fault but one of `fs`. -/
def FaultsWithin (fs : List Fault) (r : Result) : Prop := (∀ f, r = .fault f → f ∈ fs) ∧ ∀ x, r ≠ .refused x

theorem faultsWithin_next (fs : List Fault) (t : State) : FaultsWithin fs (.next t) :=
  ⟨nofun, nofun⟩

theorem faultsWithin_fault {fs : List Fault} {f : Fault} (h : f ∈ fs) : FaultsWithin fs (.fault f) := by
  refine ⟨fun g hg => ?_, nofun⟩
  cases hg
  exact h

theorem faultsWithin_complete {α : Type} (a : Word) (n : Nat) (x : α) (k : α → State) :
    FaultsWithin [.misalignedData] (complete (ifAligned a n x) k) := by
  unfold ifAligned
  split
  · exact faultsWithin_next _ _
  · exact faultsWithin_fault List.mem_cons_self

theorem faultsWithin_finish {α : Type} (s : State) {x : Cp0Access α} (k : α → State)
    (hx : ∀ f, x = .fault f → f = .undefinedCP0Access) : FaultsWithin [.undefinedCP0Access] (s.finish x k) := by
  cases x with
  | done a => exact faultsWithin_next _ _
  | hold => exact faultsWithin_next _ _
  | fault f => exact faultsWithin_fault (List.mem_singleton.mpr (hx f rfl))

theorem faultsWithin_ite {fs : List Fault} {c : Prop} [Decidable c] {r r' : Result} (h : FaultsWithin fs r)
    (h' : FaultsWithin fs r') : FaultsWithin fs (if c then r else r') := by
  split
  · exact h
  · exact h'

/-- Settles O56: the fault of an instruction is that of the way it ends. -/
theorem faultsAreTheInstructionsOwn : Obligations.FaultsAreTheInstructionsOwn := by
  intro i s
  suffices h : FaultsWithin i.possibleFaults (exec i s) from h
  cases i with
  | mfc0 => exact faultsWithin_finish s _ fun _ => cp0Read_eq_fault
  | mtc0 => exact faultsWithin_finish s _ fun _ => cp0Write_eq_fault
  | lw | lh | lhu | sw | sh | amoAdd | amoAnd | amoOr => exact faultsWithin_complete ..
  | jr | eret => exact faultsWithin_ite (faultsWithin_next ..) (faultsWithin_fault (by simp [Instr.possibleFaults]))
  | jalr =>
    exact faultsWithin_ite (faultsWithin_fault (by simp [Instr.possibleFaults]))
      (faultsWithin_ite (faultsWithin_next ..) (faultsWithin_fault (by simp [Instr.possibleFaults])))
  | _ => exact faultsWithin_next ..

end Sys2Proof.Machine
end

section
/-! PROOF. Words as integers: what the model's word operations are on the signed and unsigned readings that the spec's
sentences speak of (spec/00_scope.md R11, spec/30_encoding.md R84). -/

namespace Sys2Proof.Machine

variable (a b : Word) (imm : Imm16)

/-! ## Readings -/

theorem toNat_eq_toInt_emod : (a.toNat : Int) = a.toInt % 2 ^ 32 := by
  have := a.isLt
  rw [BitVec.toInt_eq_toNat_cond]
  split <;> omega

/-- Two words put together, as a sum. -/
theorem toNat_append_eq_add {m n : Nat} (x : BitVec m) (y : BitVec n) : (x ++ y).toNat = x.toNat * 2 ^ n + y.toNat := by
  rw [BitVec.toNat_append, ← Nat.shiftLeft_add_eq_or_of_lt y.isLt, Nat.shiftLeft_eq]

theorem toInt_sextImm : (sextImm imm).toInt = imm.toInt := BitVec.toInt_signExtend_of_le (by decide)

theorem toNat_sextImm : ((sextImm imm).toNat : Int) = imm.toInt % 2 ^ 32 := by
  rw [toNat_eq_toInt_emod, toInt_sextImm]

theorem toNat_upperImm : (upperImm imm).toNat = imm.toNat * 2 ^ 16 := by
  rw [upperImm, toNat_append_eq_add, BitVec.toNat_zero, Nat.add_zero]

/-! ## Sums and differences -/

theorem toNat_add_sextImm : ((a + sextImm imm).toNat : Int) = (a.toNat + imm.toInt : Int) % 2 ^ 32 := by
  have := toNat_sextImm imm
  rw [BitVec.toNat_add]
  omega

theorem toNat_sub_emod : ((a - b).toNat : Int) = (a.toNat - b.toNat : Int) % 2 ^ 32 := by
  have := b.isLt
  rw [BitVec.toNat_sub]
  omega

/-! ## Comparisons -/

theorem boolWord_ltSigned : boolWord (ltSigned a b) = if a.toInt < b.toInt then 1 else 0 := by
  simp [boolWord, ltSigned]

theorem boolWord_ltUnsigned : boolWord (ltUnsigned a b) = if a.toNat < b.toNat then 1 else 0 := by
  simp [boolWord, ltUnsigned]

/-! ## Shifts -/

variable (n : Nat)

theorem toInt_sshiftRight_eq_div : (a.sshiftRight n).toInt = a.toInt / 2 ^ n := by
  rw [BitVec.toInt_sshiftRight, Int.shiftRight_eq_div_pow]
  norm_cast

theorem toNat_ushiftRight_eq_div : (a >>> n).toNat = a.toNat / 2 ^ n := by
  rw [BitVec.toNat_ushiftRight, Nat.shiftRight_eq_div_pow]

theorem toNat_shiftLeft_eq_mul : (a <<< n).toNat = a.toNat * 2 ^ n % 2 ^ 32 := by
  rw [BitVec.toNat_shiftLeft, Nat.shiftLeft_eq]

/-! ## Quotients and remainders (spec/42_muldiv.md R141 to R145) -/

/-- The corner operands of the signed operations, by their readings. -/
theorem signedCorner_iff : signedCorner a b = true ↔ b.toInt = 0 ∨ (a.toInt = -2 ^ 31 ∧ b.toInt = -1) := by
  have hzero : b = 0 ↔ b.toInt = 0 := BitVec.toInt_inj.symm
  have hmin : a = 0x80000000 ↔ a.toInt = -2 ^ 31 := BitVec.toInt_inj.symm
  have hneg : b = 0xFFFFFFFF ↔ b.toInt = -1 := BitVec.toInt_inj.symm
  simp only [signedCorner, Bool.or_eq_true, Bool.and_eq_true, beq_iff_eq, hzero, hmin, hneg]

/-- Off the corners the quotient fits a word (D8): only -2^31 / -1 would not. -/
theorem toInt_divSigned (h : ¬signedCorner a b = true) : (divSigned a b).toInt = a.toInt.tdiv b.toInt := by
  have hfits : a ≠ BitVec.intMin 32 ∨ b ≠ -1#32 := by
    by_contra hc
    push Not at hc
    obtain ⟨rfl, rfl⟩ := hc
    exact h (by decide)
  rw [divSigned, if_neg h, ← BitVec.toInt_sdiv_of_ne_or_ne a b hfits, BitVec.ofInt_toInt]

theorem toInt_remSigned (h : ¬signedCorner a b = true) : (remSigned a b).toInt = a.toInt.tmod b.toInt := by
  rw [remSigned, if_neg h, ← Int.tmod_def, ← BitVec.toInt_srem, BitVec.ofInt_toInt]

theorem toNat_divUnsigned (h : b.toNat ≠ 0) : (divUnsigned a b).toNat = a.toNat / b.toNat := by
  have hb : ¬(b == 0) = true := fun e => h (by rw [eq_of_beq e]; rfl)
  rw [divUnsigned, if_neg hb, BitVec.toNat_ofNat]
  exact Nat.mod_eq_of_lt (lt_of_le_of_lt (Nat.div_le_self _ _) a.isLt)

theorem toNat_remUnsigned (h : b.toNat ≠ 0) : (remUnsigned a b).toNat = a.toNat % b.toNat := by
  have hb : ¬(b == 0) = true := fun e => h (by rw [eq_of_beq e]; rfl)
  rw [remUnsigned, if_neg hb, BitVec.toNat_ofNat]
  exact Nat.mod_eq_of_lt (lt_of_le_of_lt (Nat.mod_le _ _) a.isLt)

theorem divUnsigned_of_zero {b : Word} (h : b.toNat = 0) : divUnsigned a b = Config.divCorner .divu a b := by
  rw [divUnsigned, if_pos (beq_iff_eq.mpr (BitVec.eq_of_toNat_eq h))]

theorem remUnsigned_of_zero {b : Word} (h : b.toNat = 0) : remUnsigned a b = Config.divCorner .remu a b := by
  rw [remUnsigned, if_pos (beq_iff_eq.mpr (BitVec.eq_of_toNat_eq h))]

end Sys2Proof.Machine
end

section
/-! PROOF. Registers and arithmetic (spec/10_state.md R21, spec/41_reg_reg_arith.md to spec/43_reg_imm_arith.md): each result
is the word operation of the instruction's own meaning, read as the spec reads it. -/

namespace Sys2Proof.Machine

/-- Settles O14: by what a write to a register does to every register. -/
theorem registerZeroIsZero : Obligations.RegisterZeroIsZero := by
  refine fun s r q v => ⟨readReg_zero s, ?zero, fun hr => ?same, fun hq => ?other⟩
  case zero => rw [readReg_setReg, if_neg (by simp)]
  case same => rw [readReg_setReg, if_pos ⟨rfl, hr⟩]
  case other => rw [readReg_setReg, if_neg fun h => hq h.1]

/-- An instruction that ends with `v` written back completes so, whatever `v` is written as. -/
theorem completes_writesReg {i : Instr} {s : State} {rd : Reg} {v w : Word} (hexec : exec i s = .next (s.writeBack rd v))
    (hv : v = w) : Completes i s fun t => WritesReg s t rd w :=
  ⟨_, hexec, hv ▸ writesReg_writeBack s rd v⟩

/-- Settles O22: the word sum and difference are those of the unsigned readings modulo 2^32. -/
theorem addAndSubtractResults : Obligations.AddAndSubtractResults := by
  refine fun s rd rs rt => ⟨⟨isWordOf_encode (.addu rd rs rt), ?addu⟩, ⟨isWordOf_encode (.subu rd rs rt), ?subu⟩⟩
  case addu => exact completes_of_writeBack (exec_addu s rd rs rt) (BitVec.toNat_add _ _)
  case subu => exact completes_of_writeBack (exec_subu s rd rs rt) (toNat_sub_emod _ _)

/-- Settles O24: sign extension keeps the signed reading of the immediate. -/
theorem comparisonResults : Obligations.ComparisonResults := by
  refine fun s rd rs rt imm => ⟨⟨isWordOf_encode (.slt rd rs rt), ?slt⟩, ⟨isWordOf_encode (.sltu rd rs rt), ?sltu⟩,
    ⟨isWordOf_encode (.slti rt rs imm), ?slti⟩, ⟨isWordOf_encode (.sltiu rt rs imm), ?sltiu⟩⟩
  case slt => exact completes_writesReg (exec_slt s rd rs rt) (boolWord_ltSigned _ _)
  case sltu => exact completes_writesReg (exec_sltu s rd rs rt) (boolWord_ltUnsigned _ _)
  case slti =>
    refine completes_writesReg (exec_slti s rt rs imm) ?_
    rw [boolWord_ltSigned, toInt_sextImm]
  case sltiu =>
    refine completes_writesReg (exec_sltiu s rt rs imm) ?_
    simp only [boolWord_ltUnsigned, ← toNat_sextImm, Nat.cast_lt]

/-- Whatever the reading of large amounts, the amount a variable shift takes (spec/41_reg_reg_arith.md R128, D7). -/
theorem shiftAmount_eq {s : State} {rs : Reg} {n : Nat} (hsmall : (s.readReg rs).toNat < 32 → n = (s.readReg rs).toNat)
    (hlow5 : 32 ≤ (s.readReg rs).toNat → s.cfg.shiftAmount = .low5 → n = (s.readReg rs).toNat % 32)
    (hfull : 32 ≤ (s.readReg rs).toNat → s.cfg.shiftAmount = .full → n = 32) : s.shiftAmount rs = n := by
  unfold State.shiftAmount
  rcases Nat.lt_or_ge (s.readReg rs).toNat 32 with hlt | hge <;> cases hcfg : s.cfg.shiftAmount
  · simp [hsmall hlt, Nat.mod_eq_of_lt hlt]
  · simp [hsmall hlt, Nat.min_eq_left hlt.le]
  · exact (hlow5 hge hcfg).symm
  · simp [hfull hge hcfg, hge]

/-- Settles O25: each shift by the amount taken is its division or product. -/
theorem variableShiftResults : Obligations.VariableShiftResults := by
  intro s rd rt rs n hsmall hlow5 hfull
  obtain rfl := shiftAmount_eq hsmall hlow5 hfull
  refine ⟨⟨isWordOf_encode (.srav rd rt rs), ?srav⟩, ⟨isWordOf_encode (.srlv rd rt rs), ?srlv⟩,
    ⟨isWordOf_encode (.sllv rd rt rs), ?sllv⟩⟩
  case srav => exact completes_of_writeBack (exec_srav s rd rt rs) (toInt_sshiftRight_eq_div _ _)
  case srlv => exact completes_of_writeBack (exec_srlv s rd rt rs) (toNat_ushiftRight_eq_div _ _)
  case sllv => exact completes_of_writeBack (exec_sllv s rd rt rs) (toNat_shiftLeft_eq_mul _ _)

/-- Settles O27: the signed and unsigned quotients off the corners, the free value at them. -/
theorem divisionResults : Obligations.DivisionResults := by
  refine fun s rd rs rt => ⟨⟨isWordOf_encode (.div rd rs rt), ?div⟩, ⟨isWordOf_encode (.divu rd rs rt), ?divu⟩⟩
  case div =>
    refine completes_of_writeBack (exec_div s rd rs rt) ?_
    simp only [← signedCorner_iff]
    split
    case isTrue hcorner => rw [divSigned, if_pos hcorner]
    case isFalse hcorner => exact toInt_divSigned _ _ hcorner
  case divu =>
    refine completes_of_writeBack (exec_divu s rd rs rt) ?_
    split
    case isTrue hzero => exact divUnsigned_of_zero _ hzero
    case isFalse hzero => exact toNat_divUnsigned _ _ hzero

/-- Settles O28: the signed and unsigned remainders off the corners, the free value at them. -/
theorem remainderResults : Obligations.RemainderResults := by
  refine fun s rd rs rt => ⟨⟨isWordOf_encode (.rem rd rs rt), ?rem⟩, ⟨isWordOf_encode (.remu rd rs rt), ?remu⟩⟩
  case rem =>
    refine completes_of_writeBack (exec_rem s rd rs rt) ?_
    simp only [← signedCorner_iff]
    split
    case isTrue hcorner => rw [remSigned, if_pos hcorner]
    case isFalse hcorner => exact (toInt_remSigned _ _ hcorner).trans (Int.tmod_def _ _)
  case remu =>
    refine completes_of_writeBack (exec_remu s rd rs rt) ?_
    split
    case isTrue hzero => exact remUnsigned_of_zero _ hzero
    case isFalse hzero => exact toNat_remUnsigned _ _ hzero

theorem readReg_of_writeBack {s t : State} {rd : Reg} {v : Word} (h : Host.Outcome.next (s.writeBack rd v) = (.next t : Result))
    (hrd : rd ≠ 0) : t.readReg rd = v := by
  cases h
  rw [readReg_writeBack, if_pos ⟨rfl, hrd⟩]

theorem tmod_nonpos_of_nonpos {a : Int} (b : Int) (h : a ≤ 0) : a.tmod b ≤ 0 := by
  have := Int.tmod_nonneg b (show 0 ≤ -a by omega)
  rw [Int.neg_tmod] at this
  omega

/-- Settles O29: the results of div and rem are the truncated quotient and remainder of the same operands. -/
theorem quotientAndRemainderRebuildTheDividend : Obligations.QuotientAndRemainderRebuildTheDividend := by
  refine fun s t u rd rs rt hrd => ⟨fun hdiv hrem hzero hmin => ?signed, fun hdiv hrem hzero => ?unsigned⟩
  case signed =>
    have hcorner : ¬signedCorner (s.readReg rs) (s.readReg rt) = true := by
      rw [signedCorner_iff]
      exact not_or.mpr ⟨hzero, hmin⟩
    rw [readReg_of_writeBack hdiv hrd, readReg_of_writeBack hrem hrd, toInt_divSigned _ _ hcorner, toInt_remSigned _ _ hcorner]
    refine ⟨(Int.mul_tdiv_add_tmod _ _).symm, ?_, Int.tmod_nonneg _, tmod_nonpos_of_nonpos _⟩
    rw [Int.natAbs_tmod]
    exact Nat.mod_lt _ (Int.natAbs_pos.mpr hzero)
  case unsigned =>
    rw [readReg_of_writeBack hdiv hrd, readReg_of_writeBack hrem hrd, toNat_divUnsigned _ _ hzero, toNat_remUnsigned _ _ hzero]
    exact ⟨(Nat.div_add_mod _ _).symm, Nat.mod_lt _ (Nat.pos_of_ne_zero hzero)⟩

/-- Settles O30: by the readings of the two immediates. -/
theorem addImmediateAndLuiResults : Obligations.AddImmediateAndLuiResults := by
  refine fun s rt rs imm => ⟨⟨isWordOf_encode (.addiu rt rs imm), ?addiu⟩, ⟨isWordOf_encode (.lui rt imm), ?lui⟩⟩
  case addiu => exact completes_of_writeBack (exec_addiu s rt rs imm) (toNat_add_sextImm _ imm)
  case lui => exact completes_of_writeBack (exec_lui s rt imm) (toNat_upperImm imm)

/-- Settles O32: as the variable shifts, by the amount of the field. -/
theorem constantShiftResults : Obligations.ConstantShiftResults := by
  refine fun s rd rt sa => ⟨⟨isWordOf_encode (.sra rd rt sa), ?sra⟩, ⟨isWordOf_encode (.srl rd rt sa), ?srl⟩,
    ⟨isWordOf_encode (.sll rd rt sa), ?sll⟩⟩
  case sra => exact completes_of_writeBack (exec_sra s rd rt sa) (toInt_sshiftRight_eq_div _ _)
  case srl => exact completes_of_writeBack (exec_srl s rd rt sa) (toNat_ushiftRight_eq_div _ _)
  case sll => exact completes_of_writeBack (exec_sll s rd rt sa) (toNat_shiftLeft_eq_mul _ _)

/-- Settles O7: the word is sll's with every field 0, and a result for register 0 is discarded. -/
theorem allZeroWordIsNoOperation : Obligations.AllZeroWordIsNoOperation :=
  ⟨isWordOf_encode (.sll 0 0 0), fun _ => rfl⟩

/-- Settles O20: the sum of addiu, and register 0 reads 0. -/
theorem effectiveAddressIsBasePlusOffset : Obligations.EffectiveAddressIsBasePlusOffset := by
  refine fun s rs imm => ⟨toNat_add_sextImm _ imm, ?_⟩
  rw [State.effAddr, readReg_zero]
  exact BitVec.zero_add _

end Sys2Proof.Machine
end

section
/-! PROOF. Memory accesses (spec/20_memory.md R50 to R56): little-endian bytes at the truncated address, and the fault where
an access is misaligned. -/

namespace Sys2Proof.Machine

variable {s : State} {a b : Word}

/-! ## Addresses -/

/-- The bytes of an aligned word have consecutive physical addresses: it does not wrap (spec/20_memory.md R55). -/
theorem paddr_add (hs : s.cfg.wf = true) (ha : a.toNat % 4 = 0) {k : Word} (hk : k.toNat < 4) :
    s.paddr (a + k) = s.paddr a + k.toNat := by
  have hfits := paddr_add_size_le hs (dvd_refl 4) ha
  have hsum : (a + k).toNat = a.toNat + k.toNat := by
    rw [BitVec.toNat_add]
    omega
  rw [State.paddr, hsum, ← Nat.mod_add_mod]
  exact Nat.mod_eq_of_lt (lt_of_lt_of_le (Nat.add_lt_add_left hk _) hfits)

/-- Whether an access is aligned shows in the low bits that truncation keeps. -/
theorem ifAligned_congr {α : Type} (hs : s.cfg.wf = true) (hab : s.paddr a = s.paddr b) {n : Nat} (hn : n ∣ 4) (x : α) :
    ifAligned a n x = ifAligned b n x := by
  have hmod : a.toNat % n = b.toNat % n := by rw [← paddr_mod hs a hn, ← paddr_mod hs b hn, hab]
  unfold ifAligned aligned
  rw [hmod]

/-- Settles O18: the access goes to the truncated address, and alignment shows in it. -/
theorem highAddressBitsAreTruncated : Obligations.HighAddressBitsAreTruncated := by
  intro s a b w h c hs hab
  have hp : s.paddr a = s.paddr b := hab
  have word {α : Type} (x : α) := ifAligned_congr hs hp (dvd_refl 4) x
  have half {α : Type} (x : α) := ifAligned_congr hs hp (show 2 ∣ 4 by decide) x
  simp only [State.loadWord, State.loadHalf, State.loadByte, State.storeWord, State.storeHalf, State.storeByte, hp, word, half,
    and_self]

/-! ## Stores -/

/-- Settles O17: an aligned store is `storeBytes` of the value's bytes, and a misaligned one is none. -/
theorem memWriteStoresItsBytesAndNoOther : Obligations.MemWriteStoresItsBytesAndNoOther := by
  refine fun s a w h b => ⟨⟨?byte, sameMemOutside_storeBytes s _ [b]⟩, fun ha => ?half, fun ha => ?word, fun ha => ?_,
    fun ha => ?_⟩
  case byte => exact byte_storeBytes s _ [b] Nat.one_pos
  case half =>
    refine ⟨_, ifAligned_of_aligned _ ha, sameMemOutside_storeBytes s _ (bytesOfHalf h), fun k hk => ?_⟩
    exact (byte_storeBytes s _ (bytesOfHalf h) hk).trans (getElem_bytesOfHalf h hk)
  case word =>
    refine ⟨_, ifAligned_of_aligned _ ha, sameMemOutside_storeBytes s _ (bytesOfWord w), fun k hk => ?_⟩
    exact (byte_storeBytes s _ (bytesOfWord w) hk).trans (getElem_bytesOfWord w hk)
  all_goals exact ifAligned_of_misaligned _ ha

/-! ## Mixed widths -/

theorem byte_storeWord (p : Nat) (w : Word) {k : Nat} (hk : k < 4) :
    (s.storeBytes p (bytesOfWord w)).mem.byte (p + k) = w.extractLsb' (8 * k) 8 :=
  (byte_storeBytes s p (bytesOfWord w) hk).trans (getElem_bytesOfWord w hk)

/-- Neighbouring bytes of a word make up a halfword of it. -/
theorem extract_append_extract (w : Word) (k : Nat) :
    w.extractLsb' (k + 8) 8 ++ w.extractLsb' k 8 = w.extractLsb' k 16 := by
  apply BitVec.eq_of_getLsbD_eq
  intro i hi
  simp only [BitVec.getLsbD_append, BitVec.getLsbD_extractLsb']
  interval_cases i <;> simp [Nat.add_assoc]

theorem half_storeWord (p : Nat) (w : Word) {k : Nat} (hk : k + 1 < 4) :
    (s.storeBytes p (bytesOfWord w)).mem.half (p + k) = w.extractLsb' (8 * k) 16 := by
  rw [Memory.half, Nat.add_assoc, byte_storeWord p w hk, byte_storeWord p w (by omega)]
  exact extract_append_extract w (8 * k)

/-- Settles O16: the four bytes lie at four consecutive physical addresses, whatever the width of the access. -/
theorem mixedWidthAccessesAreLittleEndian : Obligations.MixedWidthAccessesAreLittleEndian := by
  intro s a w b0 b1 b2 b3 hs ha
  have h1 : s.paddr (a + 1) = s.paddr a + 1 := paddr_add hs ha (by decide)
  have h2 : s.paddr (a + 2) = s.paddr a + 2 := paddr_add hs ha (by decide)
  have h3 : s.paddr (a + 3) = s.paddr a + 3 := paddr_add hs ha (by decide)
  have ha2 : (a + 2).toNat % 2 = 0 := by
    have htwo : (2 : Word).toNat = 2 := rfl
    rw [BitVec.toNat_add, htwo]
    omega
  constructor
  · refine ⟨_, ifAligned_of_aligned _ ha, ?_⟩
    simp only [State.loadByte, State.loadHalf, State.loadWord, paddr_storeBytes, h1, h2, h3]
    refine ⟨byte_storeWord _ w (k := 0) (by decide), byte_storeWord _ w (k := 1) (by decide),
      byte_storeWord _ w (k := 2) (by decide), byte_storeWord _ w (k := 3) (by decide), ?_, ?_, ?_⟩
    · rw [ifAligned_of_aligned _ (by omega)]
      exact congrArg _ (half_storeWord _ w (k := 0) (by decide))
    · rw [ifAligned_of_aligned _ ha2]
      exact congrArg _ (half_storeWord _ w (k := 2) (by decide))
    · rw [ifAligned_of_aligned _ ha, storeBytes_mem, word_writeBytes]
  · rw [State.loadWord, ifAligned_of_aligned _ ha]
    simp only [State.storeByte, storeBytes_mem, paddr_storeBytes, h1, h2, h3, Memory.writeBytes, Memory.word, byte_write]
    simp [wordOfBytes]

end Sys2Proof.Machine
end

section
/-! PROOF. Loads, stores and atomics (spec/44_memory_instructions.md, spec/47_concurrency.md): each is one access of memory
that completes where the address is aligned, and faults where it is not. -/

namespace Sys2Proof.Machine

variable {s : State} {a : Word} {n : Nat}

/-! ## How an access ends -/

theorem complete_of_aligned {α : Type} {x : α} {k : α → State} (ha : a.toNat % n = 0) :
    complete (ifAligned a n x) k = .next (k x) := by
  rw [ifAligned_of_aligned x ha]
  rfl

theorem complete_of_misaligned {α : Type} {x : α} {k : α → State} (ha : a.toNat % n ≠ 0) :
    complete (ifAligned a n x) k = .fault .misalignedData := by
  rw [ifAligned_of_misaligned x ha]
  rfl

/-- Settles O21: each ends with its one access. -/
theorem misalignedAccessesFault : Obligations.MisalignedAccessesFault := by
  refine fun s rd rt rs imm => ⟨fun ha => ⟨?_, ?_⟩, fun ha => ⟨?_, ?_, ?_⟩, fun ha => ⟨?_, ?_, ?_⟩⟩
  all_goals exact complete_of_misaligned ha

/-! ## Loads -/

theorem extract_word (m : Memory) (p : Nat) {k : Nat} (hk : k < 4) : (m.word p).extractLsb' (8 * k) 8 = m.byte (p + k) := by
  interval_cases k
  · exact byteOfWord_wordOfBytes_zero ..
  · exact byteOfWord_wordOfBytes_one ..
  · exact byteOfWord_wordOfBytes_two ..
  · exact byteOfWord_wordOfBytes_three ..

theorem toNat_half (m : Memory) (p : Nat) : (m.half p).toNat = (m.byte (p + 1)).toNat * 256 + (m.byte p).toNat :=
  toNat_append_eq_add _ _

/-- The sign of a halfword is that of its high byte. -/
theorem toInt_half (m : Memory) (p : Nat) : (m.half p).toInt = (m.byte (p + 1)).toInt * 256 + (m.byte p).toNat := by
  have hhigh := (m.byte (p + 1)).isLt
  have hlow := (m.byte p).isLt
  simp only [BitVec.toInt_eq_toNat_cond, toNat_half]
  split <;> split <;> omega

/-- Settles O33: the word is put together from its four bytes. -/
theorem loadWordResult : Obligations.LoadWordResult := by
  refine fun s rt rs imm => ⟨isWordOf_encode (.lw rt rs imm), fun ha => ?aligned, fun ha => complete_of_misaligned ha⟩
  exact completes_of_writeBack (complete_of_aligned ha) fun k hk => extract_word s.mem _ hk

/-- Settles O34: sign and zero extension keep the signed and the unsigned reading of the halfword. -/
theorem loadHalfwordResults : Obligations.LoadHalfwordResults := by
  refine fun s rt rs imm => ⟨⟨isWordOf_encode (.lh rt rs imm), fun ha => ?lh, fun ha => complete_of_misaligned ha⟩,
    ⟨isWordOf_encode (.lhu rt rs imm), fun ha => ?lhu, fun ha => complete_of_misaligned ha⟩⟩
  case lh =>
    exact completes_of_writeBack (complete_of_aligned ha)
      ((BitVec.toInt_signExtend_of_le (by decide)).trans (toInt_half s.mem _))
  case lhu =>
    exact completes_of_writeBack (complete_of_aligned ha)
      ((BitVec.toNat_setWidth_of_le (by decide)).trans (toNat_half s.mem _))

/-- Settles O35: sign and zero extension keep the signed and the unsigned reading of the byte. -/
theorem loadByteResults : Obligations.LoadByteResults := by
  refine fun s rt rs imm => ⟨⟨isWordOf_encode (.lb rt rs imm), ?lb⟩, ⟨isWordOf_encode (.lbu rt rs imm), ?lbu⟩⟩
  case lb => exact completes_of_writeBack (exec_lb s rt rs imm) (BitVec.toInt_signExtend_of_le (by decide))
  case lbu => exact completes_of_writeBack (exec_lbu s rt rs imm) (BitVec.toNat_setWidth_of_le (by decide))

/-! ## Stores -/

theorem onlyStores_storeBytes (s : State) (p : Nat) (bs : List Byte) :
    OnlyStores s (s.storeBytes p bs).advance p bs.length :=
  ⟨fun _ => rfl, rfl, sameMemOutside_storeBytes s p bs, ⟨rfl, rfl, rfl⟩, ⟨rfl, rfl⟩, rfl, rfl, rfl, rfl, rfl, rfl⟩

/-- The bytes of the low half of a word are bytes of the word (spec/44_memory_instructions.md R177, D10). -/
theorem extract_low_half (w : Word) {k : Nat} (hk : k < 2) :
    (w.extractLsb' 0 16).extractLsb' (8 * k) 8 = w.extractLsb' (8 * k) 8 := by
  apply BitVec.eq_of_getLsbD_eq
  intro i hi
  have hlow : 8 * k + i < 16 := by omega
  simp [hi, hlow]

/-- Settles O36: each is one `storeBytes` of the low bytes of the register. -/
theorem storeResults : Obligations.StoreResults := by
  refine fun s rt rs imm => ⟨⟨isWordOf_encode (.sw rt rs imm), fun ha => ?sw, fun ha => complete_of_misaligned ha⟩,
    ⟨isWordOf_encode (.sh rt rs imm), fun ha => ?sh, fun ha => complete_of_misaligned ha⟩,
    ⟨isWordOf_encode (.sb rt rs imm), ?sb⟩⟩
  case sw => exact ⟨_, complete_of_aligned ha, onlyStores_storeBytes s _ (bytesOfWord _), fun k hk => byte_storeWord _ _ hk⟩
  case sh =>
    refine ⟨_, complete_of_aligned ha, onlyStores_storeBytes s _ (bytesOfHalf _), fun k hk => ?_⟩
    exact ((byte_storeBytes s _ (bytesOfHalf _) hk).trans (getElem_bytesOfHalf _ hk)).trans (extract_low_half _ hk)
  case sb => exact ⟨_, exec_sb s rt rs imm, onlyStores_storeBytes s _ [_], byte_storeBytes s _ [_] Nat.one_pos⟩

/-! ## Atomics -/

theorem fetchAndOp_of_aligned {rs : Reg} (ha : (s.readReg rs).toNat % 4 = 0) (rd rt : Reg) (op : Word → Word → Word) :
    ∃ t, s.fetchAndOp rd rs rt op = .next t
      ∧ AtomicResult s t rd rs (op (s.mem.word (s.paddr (s.readReg rs))) (s.readReg rt)) := by
  refine ⟨_, complete_of_aligned ha, fun r => readReg_writeBack _ rd r _, ?_, writeBack_pc _ _ _, ?_,
    sameRest_writeBack _ _ _⟩
  · rw [writeBack_mem, storeBytes_mem, word_writeBytes]
  · have := sameMemOutside_storeBytes s (s.paddr (s.readReg rs))
      (bytesOfWord (op (s.mem.word (s.paddr (s.readReg rs))) (s.readReg rt)))
    simpa [SameMemOutside] using this

/-- Settles O40: the three are the one shape with their own operations. -/
theorem atomicResults : Obligations.AtomicResults := by
  refine fun s rd rs rt => ⟨⟨isWordOf_encode (.amoAdd rd rs rt), fun ha => ?add⟩,
    ⟨isWordOf_encode (.amoAnd rd rs rt), fun ha => fetchAndOp_of_aligned ha rd rt _⟩,
    ⟨isWordOf_encode (.amoOr rd rs rt), fun ha => fetchAndOp_of_aligned ha rd rt _⟩,
    fun ha => ⟨complete_of_misaligned ha, complete_of_misaligned ha, complete_of_misaligned ha⟩⟩
  case add =>
    obtain ⟨t, hexec, hresult⟩ := fetchAndOp_of_aligned ha rd rt (· + ·)
    exact ⟨t, hexec, _, hresult, BitVec.toNat_add _ _⟩

end Sys2Proof.Machine
end

section
/-! PROOF. Jumps and branches (spec/45_jumps.md, spec/46_branches.md): where pc goes, and what is left alone. -/

namespace Sys2Proof.Machine

variable (s : State)

theorem onlyGoesTo_jumpTo (t : Word) : OnlyGoesTo s (s.jumpTo t) t :=
  ⟨fun _ => rfl, rfl, ⟨fun _ => rfl, rfl⟩, ⟨rfl, rfl, rfl⟩, ⟨rfl, rfl⟩, rfl, rfl, rfl, rfl, rfl, rfl⟩

/-- A link written and pc set elsewhere: the same frame as a result written back. -/
theorem writesRegAndGoesTo_jumpTo (rd : Reg) (v t : Word) : WritesRegAndGoesTo s ((s.setReg rd v).jumpTo t) rd v t :=
  ⟨fun r => readReg_setReg s rd r v, rfl, sameMem_writeBack s rd v, sameRest_writeBack s rd v⟩

/-! ## Targets -/

theorem jumpTarget_eq {target : Target} {d : Word} (hd : d.toNat = (s.pc + 4).toNat / 2 ^ 28 * 2 ^ 28 + target.toNat * 4) :
    s.jumpTarget target = d := by
  have hregion : ((s.pc + 4).extractLsb' 28 4).toNat = (s.pc + 4).toNat / 2 ^ 28 := by
    have := (s.pc + 4).isLt
    rw [BitVec.extractLsb'_toNat, Nat.shiftRight_eq_div_pow]
    omega
  apply BitVec.eq_of_toNat_eq
  rw [State.jumpTarget, State.nextPc, toNat_append_eq_add, toNat_append_eq_add, hregion, hd, BitVec.toNat_zero]
  ring

theorem branchTarget_eq {imm : Imm16} {d : Word}
    (hd : (d.toNat : Int) = ((s.pc.toNat : Int) + 4 + imm.toInt * 4) % 2 ^ 32) : s.branchTarget imm = d := by
  have himm := toNat_sextImm imm
  have hfour : (4 : Word).toNat = 4 := rfl
  apply BitVec.eq_of_toNat_eq
  rw [State.branchTarget, State.nextPc, BitVec.toNat_add, BitVec.toNat_add, toNat_shiftLeft_eq_mul, hfour]
  omega

/-! ## The statements -/

/-- Settles O37: the one address of those arithmetic properties is the target the fields make up. -/
theorem jumpResults : Obligations.JumpResults := by
  intro s target d hd
  obtain rfl := jumpTarget_eq s hd
  exact ⟨⟨isWordOf_encode (.j target), _, exec_j s target, onlyGoesTo_jumpTo s _⟩,
    ⟨isWordOf_encode (.jal target), _, exec_jal s target, writesRegAndGoesTo_jumpTo s 31 _ _⟩⟩

/-- Settles O38: the checks of jr and jalr, in their order. -/
theorem registerJumpResults : Obligations.RegisterJumpResults := by
  refine fun s rd rs => ⟨⟨isWordOf_encode (.jr rs), fun ha => ?jr, fun ha => ?jrFault⟩,
    ⟨isWordOf_encode (.jalr rd rs), fun hrd ha => ?jalr, fun hrd ha => ?jalrFault, fun hrd => ?jalrSame⟩⟩
  case jr => exact ⟨_, if_pos ((aligned_iff _ 4).mpr ha), onlyGoesTo_jumpTo s _⟩
  case jrFault => exact if_neg (mt (aligned_iff _ 4).mp ha)
  case jalr =>
    exact ⟨_, (if_neg hrd).trans (if_pos ((aligned_iff _ 4).mpr ha)), writesRegAndGoesTo_jumpTo s rd _ _⟩
  case jalrFault => exact (if_neg hrd).trans (if_neg (mt (aligned_iff _ 4).mp ha))
  case jalrSame => exact if_pos hrd

/-- A branch whose condition is the Boolean `c` goes to the target where the condition holds. -/
theorem completes_of_branchIf {i : Instr} {c : Bool} {p : Prop} [Decidable p] {imm : Imm16} {d : Word}
    (hexec : exec i s = s.branchIf c imm) (hc : c = true ↔ p) (hd : s.branchTarget imm = d) :
    Completes i s fun t => OnlyGoesTo s t (if p then d else s.pc + 4) := by
  have htarget : (if c then s.branchTarget imm else s.nextPc) = if p then d else s.pc + 4 := by
    simp only [hc, hd]
    rfl
  exact ⟨_, hexec, htarget ▸ onlyGoesTo_jumpTo s _⟩

/-- Settles O39: the six are the one shape with their own conditions. -/
theorem branchResults : Obligations.BranchResults := by
  intro s rs rt imm d hd
  have htarget := branchTarget_eq s hd
  refine ⟨⟨isWordOf_encode (.beq rs rt imm), ?beq⟩, ⟨isWordOf_encode (.bne rs rt imm), ?bne⟩,
    ⟨isWordOf_encode (.bgtz rs imm), ?bgtz⟩, ⟨isWordOf_encode (.bltz rs imm), ?bltz⟩,
    ⟨isWordOf_encode (.bgez rs imm), ?bgez⟩, ⟨isWordOf_encode (.blez rs imm), ?blez⟩⟩
  case beq => exact completes_of_branchIf s (exec_beq s rs rt imm) beq_iff_eq htarget
  case bne => exact completes_of_branchIf s (exec_bne s rs rt imm) bne_iff_ne htarget
  case bgtz => exact completes_of_branchIf s (exec_bgtz s rs imm) decide_eq_true_iff htarget
  case bltz => exact completes_of_branchIf s (exec_bltz s rs imm) decide_eq_true_iff htarget
  case bgez => exact completes_of_branchIf s (exec_bgez s rs imm) decide_eq_true_iff htarget
  case blez => exact completes_of_branchIf s (exec_blez s rs imm) decide_eq_true_iff htarget

/-- Settles O41: sync is a jump to the next instruction. -/
theorem syncOnlyAdvances : Obligations.SyncOnlyAdvances :=
  ⟨isWordOf_encode .sync, fun s => ⟨_, exec_sync s, onlyGoesTo_jumpTo s _⟩⟩

/-! ## The return from the exception (spec/48_exception_instructions.md R222) -/

theorem exec_eret_of_readable (h : s.epcSet = true ∨ s.cfg.epcUnset = .resetValue) :
    exec .eret s = .next s.returnFromException :=
  if_pos ((epcReadable_iff s).mpr h)

/-- Settles O43: epc can be read in the first case and in no other. -/
theorem eretReturns : Obligations.EretReturns := by
  refine ⟨isWordOf_encode .eret, fun s => ⟨fun h => ?returns, fun ⟨hset, hrefuse⟩ => ?faults⟩⟩
  case returns =>
    exact ⟨_, exec_eret_of_readable s h, rfl, rfl, rfl, rfl, fun _ => rfl, ⟨fun _ => rfl, rfl⟩, ⟨rfl, rfl⟩, rfl,
      rfl, rfl, rfl, rfl, rfl⟩
  case faults =>
    refine if_neg fun hreadable => ?_
    simp [hset, hrefuse] at hreadable

/-- Settles O44: syscall leaves its own address in epc, and epc written. -/
theorem eretAfterSyscallReturnsToTheSyscall : Obligations.EretAfterSyscallReturnsToTheSyscall :=
  fun s => ⟨_, _, exec_syscall s, exec_eret_of_readable s.takeSyscall (.inl rfl), rfl, rfl, fun _ => rfl⟩

end Sys2Proof.Machine
end

section
/-! PROOF. Coprocessor 0 (spec/10_state.md R30 to R36, spec/40_cp0_moves.md): the register each number stands for, and the
accesses that are done, held or undefined. -/

namespace Sys2Proof.Machine

variable {s : State}

/-! ## Reads -/

theorem cp0Read_mngr2proc : s.cp0Read 1 = s.dequeueMngr := rfl
theorem cp0Read_numcores : s.cp0Read 16 = s.fromVersion .v3 (.done (s.numcores, s)) := rfl
theorem cp0Read_coreid : s.cp0Read 17 = s.fromVersion .v3 (.done (s.coreid, s)) := rfl
theorem cp0Read_statsEn : s.cp0Read 21 = s.fromVersion .v2 s.readStatsEn := rfl
theorem cp0Write_proc2mngr (v : Word) : s.cp0Write 2 v = s.enqueueProc v := rfl
theorem cp0Write_statsEn (v : Word) : s.cp0Write 21 v = s.fromVersion .v2 (.done { s with statsEn := v }) := rfl

theorem fromVersion_of_le {α : Type} {v : Config.Version} (h : v.number ≤ s.cfg.version.number) (x : Cp0Access α) :
    s.fromVersion v x = x :=
  if_pos ((hasVersion_iff s v).mpr h)

/-- A read that changes nothing: its value goes to the register. -/
theorem completes_mfc0 {n : CpReg} {v : Word} (h : s.cp0Read n = .done (v, s)) (rt : Reg) :
    Completes (.mfc0 rt n) s fun t => WritesReg s t rt v := by
  refine ⟨s.writeBack rt v, ?_, writesReg_writeBack s rt v⟩
  rw [exec_mfc0, execMfc0, h]
  rfl

theorem exec_mfc0_of_item {v : Word} {rest : List Word} (h : s.mngr2proc = v :: rest) (rt : Reg) :
    exec (.mfc0 rt 1) s = .next (State.writeBack { s with mngr2proc := rest } rt v) := by
  have hread : s.cp0Read 1 = .done (v, { s with mngr2proc := rest }) := by
    rw [cp0Read_mngr2proc, State.dequeueMngr, h]
  rw [exec_mfc0, execMfc0, hread]
  rfl

/-- Settles O48: by the register each number stands for. -/
theorem moveFromCoprocessorResults : Obligations.MoveFromCoprocessorResults := by
  refine fun s rt rd => ⟨isWordOf_encode (.mfc0 rt rd), fun v rest hq => ?item, fun hq => ?empty, fun hv => ?numcores,
    fun hv => ?coreid, fun hv hread => ?stats⟩
  case item =>
    refine ⟨_, exec_mfc0_of_item hq rt, fun r => readReg_writeBack _ rt r v, writeBack_pc _ _ _, ?_⟩
    simp [SameMem, SameException, SameSurroundings]
  case empty =>
    have hread : s.cp0Read 1 = .hold := by
      rw [cp0Read_mngr2proc, State.dequeueMngr, hq]
    rw [exec_mfc0, execMfc0, hread]
    rfl
  case numcores => exact completes_mfc0 (cp0Read_numcores.trans (fromVersion_of_le (v := .v3) hv _)) rt
  case coreid => exact completes_mfc0 (cp0Read_coreid.trans (fromVersion_of_le (v := .v3) hv _)) rt
  case stats =>
    have hstats : s.readStatsEn = .done (s.statsEn, s) := by rw [State.readStatsEn, hread]
    exact completes_mfc0 ((cp0Read_statsEn.trans (fromVersion_of_le (v := .v2) hv _)).trans hstats) rt

/-! ## Writes -/

theorem exec_mtc0_of_done {n : CpReg} {rt : Reg} {u : State} (h : s.cp0Write n (s.readReg rt) = .done u) :
    exec (.mtc0 rt n) s = .next u.advance := by
  rw [exec_mtc0, execMtc0, h]
  rfl

theorem hasRoom_eq_false {q : List Word} {d : Nat} (hd : s.cfg.fifoDepth = some d) (h : d ≤ q.length) :
    s.hasRoom q = false := by
  simpa [State.hasRoom, hd] using h

/-- Settles O49: by the register each number stands for, and whether there is room. -/
theorem moveToCoprocessorResults : Obligations.MoveToCoprocessorResults := by
  refine fun s rt rd => ⟨isWordOf_encode (.mtc0 rt rd), fun hroom => ?room, fun d hd hfull => ?full, fun hv => ?stats⟩
  case room =>
    refine ⟨_, exec_mtc0_of_done ((cp0Write_proc2mngr _).trans (if_pos (hasRoom_of_length_lt hroom))), ?_⟩
    exact ⟨rfl, rfl, fun _ => rfl, ⟨fun _ => rfl, rfl⟩, ⟨rfl, rfl, rfl⟩, rfl, rfl, rfl, rfl, rfl, rfl, rfl⟩
  case full =>
    have hwrite : s.cp0Write 2 (s.readReg rt) = .hold := by
      rw [cp0Write_proc2mngr, State.enqueueProc, hasRoom_eq_false hd hfull]
      rfl
    rw [exec_mtc0, execMtc0, hwrite]
    rfl
  case stats =>
    refine ⟨_, exec_mtc0_of_done ((cp0Write_statsEn _).trans (fromVersion_of_le (v := .v2) hv _)), ?_⟩
    exact ⟨rfl, rfl, fun _ => rfl, ⟨fun _ => rfl, rfl⟩, ⟨rfl, rfl, rfl⟩, ⟨rfl, rfl⟩, rfl, rfl, rfl, rfl, rfl⟩

/-! ## Undefined accesses -/

theorem dequeueMngr_ne_fault (f : Fault) : s.dequeueMngr ≠ .fault f := by
  unfold State.dequeueMngr
  split <;> simp

theorem enqueueProc_ne_fault (v : Word) (f : Fault) : s.enqueueProc v ≠ .fault f := by
  unfold State.enqueueProc
  split <;> simp

theorem readStatsEn_eq_fault (f : Fault) :
    s.readStatsEn = .fault f ↔ s.cfg.statsRead ≠ .lastWritten ∧ f = .undefinedCP0Access := by
  unfold State.readStatsEn
  cases s.cfg.statsRead <;> simp [eq_comm]

/-- A register of version `v` has no defined access in an older machine, or where its own access is undefined. -/
theorem fromVersion_undefined {α : Type} (v : Config.Version) (x : Cp0Access α) :
    s.fromVersion v x = .fault .undefinedCP0Access ↔
      (v.number ≤ s.cfg.version.number → x = .fault .undefinedCP0Access) := by
  rw [fromVersion_eq_fault, ← hasVersion_iff]
  cases s.hasVersion v <;> simp

/-- The reads that are undefined: all but those of a register that the machine's version and STATS_EN_READ define. -/
theorem cp0Read_undefined (n : CpReg) :
    s.cp0Read n = .fault .undefinedCP0Access ↔
      ¬(n = 1 ∨ ((n = 16 ∨ n = 17) ∧ 3 ≤ s.cfg.version.number)
        ∨ (n = 21 ∧ 2 ≤ s.cfg.version.number ∧ s.cfg.statsRead = .lastWritten)) := by
  unfold State.cp0Read
  split
  case h_1 => simp [dequeueMngr_ne_fault]
  case h_2 | h_3 => simp [fromVersion_undefined, Config.Version.number]
  case h_4 => simp [fromVersion_undefined, readStatsEn_eq_fault, Config.Version.number]
  case h_5 h1 h16 h17 h21 => simp_all

theorem cp0Write_undefined (n : CpReg) (v : Word) :
    s.cp0Write n v = .fault .undefinedCP0Access ↔ ¬(n = 2 ∨ (n = 21 ∧ 2 ≤ s.cfg.version.number)) := by
  unfold State.cp0Write
  split
  case h_1 => simp [enqueueProc_ne_fault]
  case h_2 => simp [fromVersion_undefined, Config.Version.number]
  case h_3 h2 h21 => simp_all

/-- Settles O50: mfc0 and mtc0 fault exactly as their access does. -/
theorem undefinedCoprocessorAccessesFault : Obligations.UndefinedCoprocessorAccessesFault :=
  fun s _ n => ⟨(finish_eq_fault s _ _ _).trans (cp0Read_undefined n),
    (finish_eq_fault s _ _ _).trans (cp0Write_undefined n _)⟩

end Sys2Proof.Machine
end
